-- ==== Sys2Proof/Word.lean ====
section
/-! DEFINITION. The widths the specification names, and the two kinds of code the block decodes. -/

namespace Sys2Proof

/-- A sample byte, a filter-type tag, a message byte (00_scope.md R8: "an unsigned integer 0 to 255"). -/
abbrev Byte := BitVec 8

/-- A register of the host port (10_state.md R26: "each register is 32 bits"). -/
abbrev Word := BitVec 32

/-- A register number 0 to 63 (20_memory.md R41). -/
abbrev RegNum := BitVec 6

/-- The 39-bit transaction word of 30_encoding.md R56: bit 38 direction, bits 37:32 register number,
bits 31:0 data. -/
abbrev TxWord := BitVec 39

/-- What the block decodes (30_encoding.md, opening paragraph): a host transaction word (format HT), or
the bytes of a scanline record, tag first (format SL, R50). -/
inductive Code where
  | word (w : TxWord)
  | record (bytes : List Byte)
  deriving DecidableEq, Repr

end Sys2Proof
end

