-- ==== Sys2Proof/Machine/CrcUnit.lean ====
section
/-! DEFINITION. The byte function of the CRC-32 unit (41_crc32.md R90, R91; log 10). -/

namespace Sys2Proof.Machine

/-- The bit-reversed generator polynomial (41_crc32.md R90). -/
def crcPoly : Word := 0xEDB88320#32

/-- One iteration of 41_crc32.md R91. -/
def crcShift (c : Word) : Word :=
  if c.getLsbD 0 then (c >>> 1) ^^^ crcPoly else c >>> 1

/-- `n` iterations of 41_crc32.md R91. -/
def crcShifts : Nat → Word → Word
  | 0, c => c
  | n + 1, c => crcShifts n (crcShift c)

/-- `crc_byte(c, d)` (41_crc32.md R91). -/
def crcByte (c : Word) (d : Byte) : Word := crcShifts 8 (c ^^^ d.setWidth 32)

end Sys2Proof.Machine
end

