-- ==== Sys2Proof/Machine/Filters.lean ====
section
/-! DEFINITION. The five predictive filters as arithmetic: the predictors over the integers and the one
reduction modulo 256 (40_filter_reconstruction.md R70 to R74, R79; 90_conflicts.md C1). -/

namespace Sys2Proof.Machine

/-- The five scanline opcodes (30_encoding.md R52). -/
inductive Filter where
  | none
  | sub
  | up
  | avg
  | paeth
  deriving DecidableEq, Repr

/-- The opcode a tag stands for; tags 05 to FF stand for none (30_encoding.md R52, R53). -/
def filterOfTag (tag : Byte) : Option Filter :=
  if tag = 0x00#8 then some .none
  else if tag = 0x01#8 then some .sub
  else if tag = 0x02#8 then some .up
  else if tag = 0x03#8 then some .avg
  else if tag = 0x04#8 then some .paeth
  else Option.none

/-- The predictor of AVG: the sum is not reduced before it is halved (R73, R79). -/
def predAvg (a b : Byte) : Nat := (a.toNat + b.toNat) / 2

/-- The predictor of PAETH over the integers, ties in the order a, b, c (R74). -/
def predPaeth (a b c : Byte) : Nat :=
  let p : Int := (a.toNat : Int) + b.toNat - c.toNat
  let pa := (p - a.toNat).natAbs
  let pb := (p - b.toNat).natAbs
  let pc := (p - c.toNat).natAbs
  if pa ≤ pb ∧ pa ≤ pc then a.toNat
  else if pb ≤ pc then b.toNat
  else c.toNat

/-- The predictor of an opcode for the neighbours a, b, c, an integer 0 to 255 (R70 to R74, R79). -/
def predictor (t : Filter) (a b c : Byte) : Nat :=
  match t with
  | .none => 0
  | .sub => a.toNat
  | .up => b.toNat
  | .avg => predAvg a b
  | .paeth => predPaeth a b c

/-- `raw = (filtered + pred) mod 256` (R76, R79). -/
def reconstruct (f : Byte) (pred : Nat) : Byte := BitVec.ofNat 8 (f.toNat + pred)

end Sys2Proof.Machine
end

