-- ==== Sys2Proof/Config.lean ====
section
/-! DEFINITION. What the specification leaves open: the two parameters of the instance (00_scope.md R7)
and the unspecified contents of the line buffers after a reset (10_state.md R39). -/

namespace Sys2Proof

/-- The legal values of the two open parameters (00_scope.md R7). -/
def Config.Legal (maxw outcap : Nat) : Prop :=
  1 ≤ maxw ∧ maxw ≤ 2 ^ 32 - 1 ∧ 3 * maxw ≤ outcap ∧ outcap ≤ 2 ^ 32 - 1

/-- The implementer's choice behind `MAXW`: an uninterpreted number (log 1). -/
opaque Config.maxwChoice : Nat

/-- The implementer's choice behind `OUTCAP`: an uninterpreted number (log 1). -/
opaque Config.outcapChoice : Nat

/-- `MAXW` of the instance that `State.reset` describes (00_scope.md R7, log 1). `Config.Legal` leaves the
values 1 to 1431655765 (`3 * MAXW <= 2^32 - 1`); each of them is the value for some choice. -/
def Config.maxw : Nat := Config.maxwChoice % 1431655765 + 1

/-- `OUTCAP` of the instance that `State.reset` describes (00_scope.md R7, log 1): each value from
`3 * MAXW` to `2^32 - 1` is the value for some choice. -/
def Config.outcap : Nat := 3 * Config.maxw + Config.outcapChoice % (2 ^ 32 - 3 * Config.maxw)

/-- FREE VALUE (log 2): the byte at an index of `CUR` after the reset whose number is the first argument
(10_state.md R39: "unspecified: a model must not give them a value"). -/
opaque Config.freeCur : Nat → Nat → Byte

/-- FREE VALUE (log 2): the byte at an index of `PRIOR` after the reset whose number is the first argument
(10_state.md R39). -/
opaque Config.freePrior : Nat → Nat → Byte

end Sys2Proof
end

