-- ==== Sys2Proof/Syntax.lean ====
section
/-! DEFINITION. The instructions: one constructor per row of spec/opcode_table.json, in the table's order. -/

namespace Sys2Proof

/-- The instructions of the block (00_scope.md R2). A constructor whose name begins with `sl` is a
scanline record (30_encoding.md R50): its opcode is the tag, its operand the filtered sample bytes. The
others are host transactions (30_encoding.md R56); a write carries all 32 bits of its data field, also
those the block ignores (R58, R59), a read carries no data (R56: "not used by the block"). -/
inductive Instr where
  /-- NONE, tag 00 (R70). -/
  | slNone (filtered : List Byte)
  /-- SUB, tag 01 (R71). -/
  | slSub (filtered : List Byte)
  /-- UP, tag 02 (R72). -/
  | slUp (filtered : List Byte)
  /-- AVG, tag 03 (R73). -/
  | slAvg (filtered : List Byte)
  /-- PAETH, tag 04 (R74). -/
  | slPaeth (filtered : List Byte)
  /-- INVALID, tag 05 (R53). -/
  | slInvalid05 (filtered : List Byte)
  /-- INVALID, tags 06 and 07: bit 0 of the tag is free (R53). -/
  | slInvalid06 (low : BitVec 1) (filtered : List Byte)
  /-- INVALID, tags 08 to 0F: bits 2:0 of the tag are free (R53). -/
  | slInvalid08 (low : BitVec 3) (filtered : List Byte)
  /-- INVALID, tags 10 to 1F: bits 3:0 of the tag are free (R53). -/
  | slInvalid10 (low : BitVec 4) (filtered : List Byte)
  /-- INVALID, tags 20 to 3F: bits 4:0 of the tag are free (R53). -/
  | slInvalid20 (low : BitVec 5) (filtered : List Byte)
  /-- INVALID, tags 40 to 7F: bits 5:0 of the tag are free (R53). -/
  | slInvalid40 (low : BitVec 6) (filtered : List Byte)
  /-- INVALID, tags 80 to FF: bits 6:0 of the tag are free (R53). -/
  | slInvalid80 (low : BitVec 7) (filtered : List Byte)
  /-- FR.START (R103). -/
  | frStart
  /-- FR.EOS (R104). -/
  | frEos
  /-- FR.RESET (R105). -/
  | frReset
  /-- FR.CMD.RESERVED: a write of FR_CMD with a code other than 1, 2, 3 (R106). -/
  | frCmdReserved (code : Word)
  /-- WR.FR_CFG (R107). -/
  | wrFrCfg (data : Word)
  /-- WR.FR_WIDTH (R107). -/
  | wrFrWidth (data : Word)
  /-- WR.FR_HEIGHT (R107). -/
  | wrFrHeight (data : Word)
  /-- FR.PUSH (R108). -/
  | frPush (data : Word)
  /-- RD.FR_CFG (R101). -/
  | rdFrCfg
  /-- RD.FR_WIDTH (R101). -/
  | rdFrWidth
  /-- RD.FR_HEIGHT (R101). -/
  | rdFrHeight
  /-- RD.FR_STATUS (R113). -/
  | rdFrStatus
  /-- RD.FR_ROW (R101). -/
  | rdFrRow
  /-- RD.FR_ROWS_OUT (R101). -/
  | rdFrRowsOut
  /-- FR.POP (R109). -/
  | frPop
  /-- RD.FR_OUTLVL (R101). -/
  | rdFrOutlvl
  /-- RD.FR_FROW (R101). -/
  | rdFrFrow
  /-- RD.FR_FTAG (R101). -/
  | rdFrFtag
  /-- RD.FR_MAXW (R101). -/
  | rdFrMaxw
  /-- RD.FR_OUTCAP (R101). -/
  | rdFrOutcap
  /-- CRC.INIT (R94). -/
  | crcInit
  /-- CRC.CMD.RESERVED: a write of CRC_CMD with a code other than 1 (R98). -/
  | crcCmdReserved (code : Word)
  /-- CRC.PUSH (R92). -/
  | crcPush (data : Word)
  /-- RD.CRC_VALUE (R95). -/
  | rdCrcValue
  /-- WR.CRC_EXPECT (R96). -/
  | wrCrcExpect (data : Word)
  /-- RD.CRC_EXPECT (R96). -/
  | rdCrcExpect
  /-- RD.CRC_STATUS (R96). -/
  | rdCrcStatus
  /-- RD.NONE: a read of a write-only or reserved number (R101, R114). -/
  | rdNone (reg : RegNum)
  /-- WR.NONE: a write of a read-only or reserved number (R102, R114). -/
  | wrNone (reg : RegNum) (data : Word)
  deriving DecidableEq, Repr

end Sys2Proof
end

