-- ==== Sys2Proof/WellFormed.lean ====
section
/-! DEFINITION. Which instructions the encoding can spell: the conditions a row of the ordered opcode
table puts on its fields, and the length of a scanline record. -/

namespace Sys2Proof

/-- The register numbers a write of which has a row of its own before `WR.NONE` (42_host_transactions.md
R102): FR_CMD, FR_CFG, FR_WIDTH, FR_HEIGHT, FR_DIN, CRC_CMD, CRC_DIN, CRC_EXPECT. -/
def writableRegs : List RegNum := [0#6, 1#6, 2#6, 3#6, 7#6, 16#6, 17#6, 19#6]

/-- The register numbers a read of which has a row of its own before `RD.NONE` (42_host_transactions.md
R101). -/
def readableRegs : List RegNum :=
  [1#6, 2#6, 3#6, 4#6, 5#6, 6#6, 8#6, 9#6, 10#6, 11#6, 12#6, 13#6, 18#6, 19#6, 20#6]

/-- The filtered sample bytes of a scanline record; none for a host transaction. -/
def Instr.filtered : Instr → List Byte
  | .slNone fs | .slSub fs | .slUp fs | .slAvg fs | .slPaeth fs | .slInvalid05 fs => fs
  | .slInvalid06 _ fs | .slInvalid08 _ fs | .slInvalid10 _ fs | .slInvalid20 _ fs => fs
  | .slInvalid40 _ fs | .slInvalid80 _ fs => fs
  | .frStart | .frEos | .frReset | .frCmdReserved _ | .wrFrCfg _ | .wrFrWidth _ | .wrFrHeight _ => []
  | .frPush _ | .rdFrCfg | .rdFrWidth | .rdFrHeight | .rdFrStatus | .rdFrRow | .rdFrRowsOut => []
  | .frPop | .rdFrOutlvl | .rdFrFrow | .rdFrFtag | .rdFrMaxw | .rdFrOutcap | .crcInit => []
  | .crcCmdReserved _ | .crcPush _ | .rdCrcValue | .wrCrcExpect _ | .rdCrcExpect => []
  | .rdCrcStatus | .rdNone _ | .wrNone _ _ => []

/-- The width in pixels of the record (30_encoding.md R55: three sample bytes a pixel). -/
def Instr.pixels (i : Instr) : Nat := i.filtered.length / 3

/-- What an instruction the table can spell satisfies: a reserved command code is not a defined one
(R106, R98), `RD.NONE` and `WR.NONE` name a number without a row of its own (R101, R102), and a record
holds whole pixels (R50, R55). -/
def Instr.wellFormed (i : Instr) : Bool :=
  i.filtered.length % 3 == 0 &&
  match i with
  | .frCmdReserved code => code != 1#32 && code != 2#32 && code != 3#32
  | .crcCmdReserved code => code != 1#32
  | .rdNone reg => !readableRegs.contains reg
  | .wrNone reg _ => !writableRegs.contains reg
  | .slNone _ | .slSub _ | .slUp _ | .slAvg _ | .slPaeth _ | .slInvalid05 _ => true
  | .slInvalid06 _ _ | .slInvalid08 _ _ | .slInvalid10 _ _ | .slInvalid20 _ _ => true
  | .slInvalid40 _ _ | .slInvalid80 _ _ => true
  | .frStart | .frEos | .frReset | .wrFrCfg _ | .wrFrWidth _ | .wrFrHeight _ | .frPush _ => true
  | .rdFrCfg | .rdFrWidth | .rdFrHeight | .rdFrStatus | .rdFrRow | .rdFrRowsOut | .frPop => true
  | .rdFrOutlvl | .rdFrFrow | .rdFrFtag | .rdFrMaxw | .rdFrOutcap | .crcInit | .crcPush _ => true
  | .rdCrcValue | .wrCrcExpect _ | .rdCrcExpect | .rdCrcStatus => true

end Sys2Proof
end

