-- ==== Sys2Proof/Decode.lean ====
section
/-! DEFINITION. The decoder of the two code kinds (30_encoding.md), total on every code and rejecting by
name, and after it the encoder written from the same tables. -/

namespace Sys2Proof

/-- Why a code is no instruction. Every transaction word decodes (42_host_transactions.md R100), so only
the bytes offered as a scanline record can fail. -/
inductive DecodeError where
  /-- No byte at all: a record has at least its tag (30_encoding.md R51: length 1 or more). -/
  | emptyRecord
  /-- The length is not `1 + 3*FR_WIDTH` (30_encoding.md R50). -/
  | recordLength
  deriving DecidableEq, Repr

/-! ### The fields of a transaction word (30_encoding.md R56) -/

/-- Bit 38: 1 = HostWrite, 0 = HostRead. -/
def txIsWrite (w : TxWord) : Bool := w.getLsbD 38

/-- Bits 37:32: the register number. -/
def txReg (w : TxWord) : RegNum := w.extractLsb' 32 6

/-- Bits 31:0: the data. -/
def txData (w : TxWord) : Word := w.extractLsb' 0 32

/-! ### Decoding -/

/-- A write of FR_CMD: the code is the whole data field (30_encoding.md R57). -/
def decodeFrCmd (v : Word) : Instr :=
  if v = 1#32 then .frStart
  else if v = 2#32 then .frEos
  else if v = 3#32 then .frReset
  else .frCmdReserved v

/-- A write of CRC_CMD (30_encoding.md R57). -/
def decodeCrcCmd (v : Word) : Instr :=
  if v = 1#32 then .crcInit else .crcCmdReserved v

/-- A host write, by register number (42_host_transactions.md R102). -/
def decodeWrite (n : RegNum) (v : Word) : Instr :=
  match n with
  | 0#6 => decodeFrCmd v
  | 1#6 => .wrFrCfg v
  | 2#6 => .wrFrWidth v
  | 3#6 => .wrFrHeight v
  | 7#6 => .frPush v
  | 16#6 => decodeCrcCmd v
  | 17#6 => .crcPush v
  | 19#6 => .wrCrcExpect v
  | n => .wrNone n v

/-- A host read, by register number (42_host_transactions.md R101). -/
def decodeRead (n : RegNum) : Instr :=
  match n with
  | 1#6 => .rdFrCfg
  | 2#6 => .rdFrWidth
  | 3#6 => .rdFrHeight
  | 4#6 => .rdFrStatus
  | 5#6 => .rdFrRow
  | 6#6 => .rdFrRowsOut
  | 8#6 => .frPop
  | 9#6 => .rdFrOutlvl
  | 10#6 => .rdFrFrow
  | 11#6 => .rdFrFtag
  | 12#6 => .rdFrMaxw
  | 13#6 => .rdFrOutcap
  | 18#6 => .rdCrcValue
  | 19#6 => .rdCrcExpect
  | 20#6 => .rdCrcStatus
  | n => .rdNone n

/-- A transaction word, total (42_host_transactions.md R100). -/
def decodeWord (w : TxWord) : Instr :=
  if txIsWrite w then decodeWrite (txReg w) (txData w) else decodeRead (txReg w)

/-- A record by its tag, decoded on all 8 bits (30_encoding.md R52, R53). -/
def decodeTag (tag : Byte) (filtered : List Byte) : Instr :=
  if tag = 0x00#8 then .slNone filtered
  else if tag = 0x01#8 then .slSub filtered
  else if tag = 0x02#8 then .slUp filtered
  else if tag = 0x03#8 then .slAvg filtered
  else if tag = 0x04#8 then .slPaeth filtered
  else if tag = 0x05#8 then .slInvalid05 filtered
  else if tag.extractLsb' 1 7 = 0x03#7 then .slInvalid06 (tag.extractLsb' 0 1) filtered
  else if tag.extractLsb' 3 5 = 0x01#5 then .slInvalid08 (tag.extractLsb' 0 3) filtered
  else if tag.extractLsb' 4 4 = 0x1#4 then .slInvalid10 (tag.extractLsb' 0 4) filtered
  else if tag.extractLsb' 5 3 = 0x1#3 then .slInvalid20 (tag.extractLsb' 0 5) filtered
  else if tag.extractLsb' 6 2 = 0x1#2 then .slInvalid40 (tag.extractLsb' 0 6) filtered
  else .slInvalid80 (tag.extractLsb' 0 7) filtered

/-- A scanline record under the width that fixes its length (30_encoding.md R51: "the decoder knows it
from FR_WIDTH"). -/
def decodeRecord (width : Nat) : List Byte → Except DecodeError Instr
  | [] => .error .emptyRecord
  | tag :: filtered =>
    if filtered.length = 3 * width then .ok (decodeTag tag filtered) else .error .recordLength

/-- The decoder: a code of either kind, under the current `FR_WIDTH`. -/
def decode (width : Nat) : Code → Except DecodeError Instr
  | .word w => .ok (decodeWord w)
  | .record bytes => decodeRecord width bytes

/-! ### Encoding -/

/-- The transaction word of a direction, a register number and data (30_encoding.md R56). -/
def encodeTx (isWrite : Bool) (n : RegNum) (data : Word) : TxWord := BitVec.ofBool isWrite ++ n ++ data

/-- A write of a register. -/
def encodeWr (n : RegNum) (data : Word) : Code := .word (encodeTx true n data)

/-- A read of a register, its unused data field written as 0 (30_encoding.md R56). -/
def encodeRd (n : RegNum) : Code := .word (encodeTx false n 0#32)

/-- The code of an instruction, by the rows of spec/opcode_table.json. -/
def encode : Instr → Code
  | .slNone fs => .record (0x00#8 :: fs)
  | .slSub fs => .record (0x01#8 :: fs)
  | .slUp fs => .record (0x02#8 :: fs)
  | .slAvg fs => .record (0x03#8 :: fs)
  | .slPaeth fs => .record (0x04#8 :: fs)
  | .slInvalid05 fs => .record (0x05#8 :: fs)
  | .slInvalid06 low fs => .record ((0x03#7 ++ low) :: fs)
  | .slInvalid08 low fs => .record ((0x01#5 ++ low) :: fs)
  | .slInvalid10 low fs => .record ((0x1#4 ++ low) :: fs)
  | .slInvalid20 low fs => .record ((0x1#3 ++ low) :: fs)
  | .slInvalid40 low fs => .record ((0x1#2 ++ low) :: fs)
  | .slInvalid80 low fs => .record ((0x1#1 ++ low) :: fs)
  | .frStart => encodeWr 0#6 1#32
  | .frEos => encodeWr 0#6 2#32
  | .frReset => encodeWr 0#6 3#32
  | .frCmdReserved code => encodeWr 0#6 code
  | .wrFrCfg data => encodeWr 1#6 data
  | .wrFrWidth data => encodeWr 2#6 data
  | .wrFrHeight data => encodeWr 3#6 data
  | .frPush data => encodeWr 7#6 data
  | .rdFrCfg => encodeRd 1#6
  | .rdFrWidth => encodeRd 2#6
  | .rdFrHeight => encodeRd 3#6
  | .rdFrStatus => encodeRd 4#6
  | .rdFrRow => encodeRd 5#6
  | .rdFrRowsOut => encodeRd 6#6
  | .frPop => encodeRd 8#6
  | .rdFrOutlvl => encodeRd 9#6
  | .rdFrFrow => encodeRd 10#6
  | .rdFrFtag => encodeRd 11#6
  | .rdFrMaxw => encodeRd 12#6
  | .rdFrOutcap => encodeRd 13#6
  | .crcInit => encodeWr 16#6 1#32
  | .crcCmdReserved code => encodeWr 16#6 code
  | .crcPush data => encodeWr 17#6 data
  | .rdCrcValue => encodeRd 18#6
  | .wrCrcExpect data => encodeWr 19#6 data
  | .rdCrcExpect => encodeRd 19#6
  | .rdCrcStatus => encodeRd 20#6
  | .rdNone reg => encodeRd reg
  | .wrNone reg data => encodeWr reg data

/-! ### The table's numbering of bits -/

/-- The code whose bits spec/opcode_table.json numbers as `w`: a row of format SL has 8 bits, the tag, and
`pixels` pixels of zero operand bytes follow it; a row of format HT has the 39 bits of a transaction word,
40 in whole bytes. -/
def tableCode (pixels nbits w : Nat) : Option Code :=
  if nbits = 8 then
    if w < 2 ^ 8 then some (.record (BitVec.ofNat 8 w :: List.replicate (3 * pixels) 0#8)) else none
  else if nbits = 39 ∨ nbits = 40 then
    if w < 2 ^ 39 then some (.word (BitVec.ofNat 39 w)) else none
  else none

/-- The instruction read from the word of a table row. A record is read at the width the machine has after
reset, `FR_WIDTH = 0` (10_state.md R39): the tag alone (30_encoding.md R51, log 16). -/
def decodeTableWord (nbits w : Nat) : Option Instr :=
  match tableCode 0 nbits w with
  | some c => (decode 0 c).toOption
  | none => none

end Sys2Proof
end

