-- ==== Sys2Proof/Machine/State.lean ====
section
/-! DEFINITION. The state of the block as 10_state.md gives it, and the state right after hardware reset. -/

namespace Sys2Proof.Machine

/-- FR_STATUS.STATE (10_state.md R30). -/
inductive RunState where
  | idle
  | run
  | done
  | fault
  deriving DecidableEq, Repr

/-- FR_STATUS.CAUSE (10_state.md R30, 60_exceptions.md R120): codes 0 to 4, the only ones produced (U14). -/
inductive Cause where
  | none
  | truncatedData
  | unsupportedFilterTag
  | configError
  | inputOverrun
  deriving DecidableEq, Repr

/-- The state of the FRU, the scanline filter reverser (10_state.md R21 to R34). -/
structure Fru where
  /-- FR_STATUS.STATE (R30). -/
  state : RunState
  /-- FR_CFG.ONINV: false = fail, true = skip (R28). -/
  oninv : Bool
  /-- FR_WIDTH (R29). -/
  width : Word
  /-- FR_HEIGHT (R29). -/
  height : Word
  /-- FR_STATUS.SKIPPED (R30). -/
  skipped : Bool
  /-- FR_STATUS.TRAIL (R30). -/
  trail : Bool
  /-- FR_STATUS.CMDERR (R30). -/
  cmderr : Bool
  /-- FR_STATUS.CAUSE (R30). -/
  cause : Cause
  /-- ROW, read as FR_ROW (R23, R31). -/
  row : Word
  /-- FILL: bytes of record ROW already consumed (R23, log 13). -/
  fill : Nat
  /-- FT: the tag of the record in progress (R22). -/
  ft : Byte
  /-- ROWS_OUT, read as FR_ROWS_OUT (R24, R31). -/
  rowsOut : Word
  /-- OUTQ, head first (R25). -/
  outq : List Byte
  /-- FR_FROW (R33). -/
  frow : Word
  /-- FR_FTAG (R33). -/
  ftag : Byte
  /-- CUR, `3*MAXW` bytes (R21). -/
  cur : List Byte
  /-- PRIOR, `3*MAXW` bytes (R21). -/
  prior : List Byte
  /-- H0: the value FR_HEIGHT had at the START of the run (R23, R39). No register shows it and no result
  depends on it: the invariants of R39 are stated with it (log 9). -/
  h0 : Word
  deriving DecidableEq, Repr

/-- The state of the CRCU, the CRC-32 unit (10_state.md R35). -/
structure Crc where
  /-- ACC, the running remainder. -/
  acc : Word
  /-- EXPECT, read and written as CRC_EXPECT. -/
  expect : Word
  /-- CRC_STATUS.CMDERR. -/
  cmderr : Bool
  deriving DecidableEq, Repr

/-- What the world outside does next: a transaction word or a whole scanline record by the host (log 4,
log 6), or the platform's hardware reset (70_reset_and_hazards.md R140, log 11). -/
inductive HostInput where
  | code (c : Code)
  | hardwareReset
  deriving DecidableEq, Repr

/-- The state of the block: the disjoint union of the two units (10_state.md R20), the two parameters of
the instance, and three fields of the model's own. -/
structure State where
  /-- The FRU. -/
  fru : Fru
  /-- The CRCU. -/
  crc : Crc
  /-- MAXW of the instance, read as FR_MAXW (R34, log 1); no step changes it. -/
  maxw : Nat
  /-- OUTCAP of the instance, read as FR_OUTCAP (R34, log 1); no step changes it. -/
  outcap : Nat
  /-- The model's own: the response of the last transaction (30_encoding.md R56), none after a write
  (log 5). -/
  resp : Option Word
  /-- The model's own: what the host and the platform are yet to do, next first (log 4). -/
  input : List HostInput
  /-- The model's own: the number of resets so far, which makes the free line-buffer contents of each
  reset fresh (log 3). -/
  draw : Nat
  deriving DecidableEq, Repr

/-- Why the model stops a step with a fault. The four faults of the FRU are no stops: they are sticky next
states (60_exceptions.md R125). -/
inductive Fault where
  /-- Raised by a push when the FRU would use an index of CUR or PRIOR beyond the buffer: the
  specification says that no such access exists (20_memory.md R49), so only states that no run reaches
  raise it. Safe: the model stops where the specification gives nothing (log 8). -/
  | lineBufferRange
  deriving DecidableEq, Repr

/-- Why the model has no meaning for a step. -/
inductive Refusal where
  /-- Raised by `exec` for an instruction without a meaning yet; no arm does so. Safe. -/
  | notModelled (mnemonic : String)
  /-- Raised by `step` when bytes offered as a scanline record are no record under the current FR_WIDTH
  (30_encoding.md R50, R51); the same bytes can be pushed one by one. Safe (log 7). -/
  | undecodable (e : DecodeError)
  deriving DecidableEq, Repr

/-- The FRU after hardware reset or the RESET command number `draw` (10_state.md R39): CUR and PRIOR hold
free values (log 2). -/
def Fru.reset (draw maxw : Nat) : Fru where
  state := .idle
  oninv := false
  width := 0#32
  height := 0#32
  skipped := false
  trail := false
  cmderr := false
  cause := .none
  row := 0#32
  fill := 0
  ft := 0#8
  rowsOut := 0#32
  outq := []
  frow := 0#32
  ftag := 0#8
  cur := (List.range (3 * maxw)).map (Config.freeCur draw)
  prior := (List.range (3 * maxw)).map (Config.freePrior draw)
  h0 := 0#32

/-- The CRCU after hardware reset (10_state.md R35, R39). -/
def Crc.reset : Crc where
  acc := 0xFFFFFFFF#32
  expect := 0#32
  cmderr := false

/-- The machine right after hardware reset (10_state.md R39), the host having issued nothing yet. -/
def State.reset : State where
  fru := Fru.reset 0 Config.maxw
  crc := Crc.reset
  maxw := Config.maxw
  outcap := Config.outcap
  resp := none
  input := []
  draw := 1

end Sys2Proof.Machine
end

