-- ==== Sys2Proof/Machine/Operands.lean ====
section
/-! DEFINITION. The operands of the FRU and the CRCU: the pushed byte, the length of a row, the room in the
output queue and the three neighbours of a sample byte. -/

namespace Sys2Proof.Machine

/-- The byte a write of FR_DIN or CRC_DIN carries: bits 7:0, bits 31:8 ignored (30_encoding.md R58). -/
def pushedByte (data : Word) : Byte := data.extractLsb' 0 8

/-- `W3 = 3*FR_WIDTH`, the sample bytes of a row, over the integers (00_scope.md R7, 40 R77). -/
def rowBytes (f : Fru) : Nat := 3 * f.width.toNat

/-- Room for one more row: `OUTCAP - |OUTQ| >= 3*FR_WIDTH` over the integers (10_state.md R30). -/
def hasRoom (outcap : Nat) (f : Fru) : Bool := decide (f.outq.length + rowBytes f ≤ outcap)

/-- The neighbour `a`, "left" (40_filter_reconstruction.md R75). -/
def left (f : Fru) (x : Nat) : Byte := if 3 ≤ x then f.cur.getD (x - 3) 0#8 else 0#8

/-- The neighbour `b`, "above" (40_filter_reconstruction.md R75). -/
def above (f : Fru) (x : Nat) : Byte := f.prior.getD x 0#8

/-- The neighbour `c`, "upper-left" (40_filter_reconstruction.md R75). -/
def upperLeft (f : Fru) (x : Nat) : Byte := if 3 ≤ x then f.prior.getD (x - 3) 0#8 else 0#8

/-- Index `x` lies in both line buffers; the indices read beside it are below it (20_memory.md R49). -/
def inLineBuffers (f : Fru) (x : Nat) : Bool := decide (x < f.cur.length) && decide (x < f.prior.length)

end Sys2Proof.Machine
end

