-- ==== Sys2Proof/Machine/Flags.lean ====
section
/-! DEFINITION. The flags and the response layouts: everything a read computes and no register stores
(10_state.md R30, R32, R35, R36). -/

namespace Sys2Proof.Machine

/-- The code of FR_STATUS.STATE (10_state.md R30). -/
def stateCode : RunState → BitVec 2
  | .idle => 0#2
  | .run => 1#2
  | .done => 2#2
  | .fault => 3#2

/-- The code of FR_STATUS.CAUSE (10_state.md R30). -/
def causeCode : Cause → BitVec 4
  | .none => 0#4
  | .truncatedData => 1#4
  | .unsupportedFilterTag => 2#4
  | .configError => 3#4
  | .inputOverrun => 4#4

/-- FR_STATUS.IN_READY (10_state.md R30): a write to FR_DIN will be accepted. -/
def inReady (outcap : Nat) (f : Fru) : Bool :=
  decide (f.state = .run) && (decide (0 < f.fill) || hasRoom outcap f)

/-- FR_STATUS.OUT_VALID (10_state.md R30). -/
def outValid (f : Fru) : Bool := !f.outq.isEmpty

/-- The FR_STATUS response (42_host_transactions.md R113), bit 31 first. -/
def frStatus (outcap : Nat) (f : Fru) : Word :=
  0#20 ++ causeCode f.cause ++ 0#1 ++ BitVec.ofBool f.cmderr ++ BitVec.ofBool f.trail ++
    BitVec.ofBool f.skipped ++ BitVec.ofBool (outValid f) ++ BitVec.ofBool (inReady outcap f) ++
    stateCode f.state

/-- The FR_CFG response `{0[30:0], ONINV}` (42_host_transactions.md R101). -/
def frCfg (f : Fru) : Word := 0#31 ++ BitVec.ofBool f.oninv

/-- The FR_FTAG response `{0[23:0], FR_FTAG[7:0]}` (42_host_transactions.md R101). -/
def frFtag (f : Fru) : Word := 0#24 ++ f.ftag

/-- The FR_DOUT response for a delivered byte: bit 31 VALID, bits 7:0 the byte (42 R109). -/
def doutValid (b : Byte) : Word := 1#1 ++ 0#23 ++ b

/-- The CRC_VALUE response, the complement of ACC (41_crc32.md R95). -/
def crcValue (c : Crc) : Word := c.acc ^^^ 0xFFFFFFFF#32

/-- CRC_STATUS.MATCH (41_crc32.md R96). -/
def crcMatch (c : Crc) : Bool := decide (crcValue c = c.expect)

/-- The CRC_STATUS response `{0[29:0], CRC_CMDERR, MATCH}` (41_crc32.md R96). -/
def crcStatus (c : Crc) : Word := 0#30 ++ BitVec.ofBool c.cmderr ++ BitVec.ofBool (crcMatch c)

end Sys2Proof.Machine
end

