-- ==== Sys2Proof/Machine/Ops.lean ====
section
/-! DEFINITION. The shared operations: taking a fault and leaving it, the steps the FRU makes for one
pushed byte, the push of one byte and of a whole record, answering a read, and fetching the host's next
input. -/

namespace Sys2Proof.Machine

/-! ### Faults -/

/-- Fault entry, the meaning of `raise` (60_exceptions.md R125): STATE, CAUSE, FR_FROW and FR_FTAG, and
nothing else. -/
def raiseFault (c : Cause) (f : Fru) : Fru :=
  { f with
    state := .fault
    cause := c
    frow := f.row
    ftag := if c = .unsupportedFilterTag then f.ft else 0#8 }

/-- What START does before its checks (42_host_transactions.md R103). With `resetFru` and
`hardwareReset` it is the only way out of FAULT (60_exceptions.md R128: there is no return). -/
def clearRun (maxw : Nat) (f : Fru) : Fru :=
  { f with
    row := 0#32
    rowsOut := 0#32
    fill := 0
    ft := 0#8
    outq := []
    skipped := false
    trail := false
    cmderr := false
    cause := .none
    frow := 0#32
    ftag := 0#8
    prior := List.replicate (3 * maxw) 0#8
    h0 := f.height }

/-- The checks of START (42_host_transactions.md R103): the width before the height. -/
def enterRun (maxw : Nat) (f : Fru) : Fru :=
  if maxw < f.width.toNat then raiseFault .configError f
  else if f.height = 0#32 then { f with state := .done }
  else { f with state := .run }

/-- START (42_host_transactions.md R103). -/
def startRun (maxw : Nat) (f : Fru) : Fru := enterRun maxw (clearRun maxw f)

/-- The RESET command (42_host_transactions.md R105): the FRU part of the reset state, CUR and PRIOR
unspecified anew; the CRCU is not affected. -/
def resetFru (s : State) : State :=
  { s with fru := Fru.reset s.draw s.maxw, draw := s.draw + 1 }

/-- Hardware reset (70_reset_and_hazards.md R140): both units, then whatever the host does next. -/
def hardwareReset (rest : List HostInput) (s : State) : State :=
  { s with
    fru := Fru.reset s.draw s.maxw
    crc := Crc.reset
    resp := none
    input := rest
    draw := s.draw + 1 }

/-! ### One pushed byte (40_filter_reconstruction.md R76 to R82) -/

/-- Tag step (R78). -/
def tagStep (v : Byte) (f : Fru) : Fru := { f with ft := v, fill := 1 }

/-- The raw byte at offset `x` of the record in progress: the filtered byte `d` plus the predictor of the
neighbours (R75, R76). -/
def rawByte (t : Filter) (d : Byte) (f : Fru) (x : Nat) : Byte :=
  reconstruct d (predictor t (left f x) (above f x) (upperLeft f x))

/-- Sample step (R76) at offset `x = FILL - 1`: under a valid tag the raw byte goes to CUR, under an
invalid one the byte is discarded. -/
def sampleStep (d : Byte) (f : Fru) : Except Fault Fru :=
  match filterOfTag f.ft with
  | some t =>
    if inLineBuffers f (f.fill - 1) then
      .ok { f with
        cur := f.cur.set (f.fill - 1) (rawByte t d f (f.fill - 1))
        fill := f.fill + 1 }
    else .error .lineBufferRange
  | none => .ok { f with fill := f.fill + 1 }

/-- Commit (R77): the row goes to OUTQ and to PRIOR. -/
def commitRow (f : Fru) : Except Fault Fru :=
  if rowBytes f ≤ f.cur.length ∧ rowBytes f ≤ f.prior.length then
    .ok { f with
      outq := f.outq ++ f.cur.take (rowBytes f)
      prior := f.cur.take (rowBytes f) ++ f.prior.drop (rowBytes f)
      rowsOut := f.rowsOut + 1#32
      row := f.row + 1#32
      fill := 0 }
  else .error .lineBufferRange

/-- Skip (R81): the first skip of a run is recorded. -/
def skipRow (f : Fru) : Fru :=
  { f with
    frow := if f.skipped then f.frow else f.row
    ftag := if f.skipped then f.ftag else f.ft
    skipped := true
    row := f.row + 1#32
    fill := 0 }

/-- End of image (R77, R82), after a commit or a skip. -/
def endOfImage (f : Fru) : Fru := if f.row = f.height then { f with state := .done } else f

/-- The completion check that ends every tag step and sample step (R77). -/
def completionCheck (f : Fru) : Except Fault Fru :=
  if f.fill = 1 + rowBytes f then
    match filterOfTag f.ft with
    | some _ => (commitRow f).map endOfImage
    | none =>
      if f.oninv then .ok (endOfImage (skipRow f)) else .ok (raiseFault .unsupportedFilterTag f)
  else .ok f

/-- The push of a byte in RUN (42_host_transactions.md R108). -/
def pushInRun (outcap : Nat) (d : Byte) (f : Fru) : Except Fault Fru :=
  if f.fill = 0 then
    if hasRoom outcap f then completionCheck (tagStep d f) else .ok (raiseFault .inputOverrun f)
  else (sampleStep d f).bind completionCheck

/-- The push of a byte in any state (42_host_transactions.md R108). -/
def pushByte (outcap : Nat) (d : Byte) (f : Fru) : Except Fault Fru :=
  match f.state with
  | .idle => .ok f
  | .fault => .ok f
  | .done => .ok { f with trail := true }
  | .run => pushInRun outcap d f

/-- The pushes of a sequence of bytes, in order. -/
def pushBytes (outcap : Nat) : List Byte → Fru → Except Fault Fru
  | [], f => .ok f
  | d :: ds, f => (pushByte outcap d f).bind (pushBytes outcap ds)

/-- The FRU's part of an outcome, put back into the state. -/
def withFru (s : State) : Except Fault Fru → Host.Outcome State Fault Refusal
  | .ok f => .next { s with fru := f }
  | .error e => .fault e

/-- A whole scanline record: the push of its tag and then of its sample bytes, the expansion
`fr.pushrec` of 30_encoding.md R62 (log 6). -/
def pushRecord (tag : Byte) (filtered : List Byte) (s : State) : Host.Outcome State Fault Refusal :=
  withFru s (pushBytes s.outcap (tag :: filtered) s.fru)

/-! ### Register accesses -/

/-- A read answers with a 32-bit response (30_encoding.md R56) and changes no state (42 R101). -/
def answer (v : Word) (s : State) : Host.Outcome State Fault Refusal := .next { s with resp := some v }

/-- A configuration write is ignored in RUN (42_host_transactions.md R107). -/
def configWrite (g : Fru → Fru) (s : State) : Host.Outcome State Fault Refusal :=
  .next (if s.fru.state = .run then s else { s with fru := g s.fru })

/-! ### The host's next input -/

/-- Taking an item off the host's list: the transaction begins with no response on the port. -/
def beginTransaction (rest : List HostInput) (s : State) : State :=
  { s with resp := none, input := rest }

/-- The instruction a code stands for, under the FR_WIDTH of the state (30_encoding.md R51). -/
def fetched (s : State) (c : Code) : Except DecodeError Instr := decode s.fru.width.toNat c

/-- The FRU fetches a tag only in RUN at a record boundary (42_host_transactions.md R108): elsewhere,
what the host does to get there, a START with at least one row declared (log 12). -/
def readyForRecord (s : State) : State :=
  if s.fru.state = .run ∧ s.fru.fill = 0 then s
  else
    { s with
      fru := startRun s.maxw { s.fru with height := if s.fru.height = 0#32 then 1#32 else s.fru.height } }

/-- The state with the code of a table row as the host's next input; a scanline record is padded with
zero samples to the length FR_WIDTH gives it and put where the FRU fetches it (log 12). -/
def placeTableWord (s : State) (nbits w : Nat) : State :=
  match tableCode s.fru.width.toNat nbits w with
  | some (.word v) => { s with input := .code (.word v) :: s.input }
  | some (.record bytes) => { readyForRecord s with input := .code (.record bytes) :: s.input }
  | none => s

end Sys2Proof.Machine
end

