-- ==== Sys2Proof/Machine/Commands.lean ====
section
/-! DEFINITION. The meanings of the FRU commands, the configuration writes, the data transactions of the
FRU, and the writes and reads that select nothing (42_host_transactions.md). -/

namespace Sys2Proof.Machine

/-- FR.START (R103), accepted in every state. -/
def execFrStart (s : State) : Host.Outcome State Fault Refusal :=
  .next { s with fru := startRun s.maxw s.fru }

/-- FR.EOS (R104): TruncatedData in RUN (60_exceptions.md R121), no effect elsewhere. -/
def execFrEos (s : State) : Host.Outcome State Fault Refusal :=
  .next (if s.fru.state = .run then { s with fru := raiseFault .truncatedData s.fru } else s)

/-- FR.RESET (R105), accepted in every state. -/
def execFrReset (s : State) : Host.Outcome State Fault Refusal := .next (resetFru s)

/-- FR.CMD.RESERVED (R106): sets CMDERR only. -/
def execFrCmdReserved (_code : Word) (s : State) : Host.Outcome State Fault Refusal :=
  .next { s with fru := { s.fru with cmderr := true } }

/-- WR.FR_CFG (R107): bit 0 only. -/
def execWrFrCfg (data : Word) (s : State) : Host.Outcome State Fault Refusal :=
  configWrite (fun f => { f with oninv := data.getLsbD 0 }) s

/-- WR.FR_WIDTH (R107). -/
def execWrFrWidth (data : Word) (s : State) : Host.Outcome State Fault Refusal :=
  configWrite (fun f => { f with width := data }) s

/-- WR.FR_HEIGHT (R107). -/
def execWrFrHeight (data : Word) (s : State) : Host.Outcome State Fault Refusal :=
  configWrite (fun f => { f with height := data }) s

/-- FR.PUSH (R108). -/
def execFrPush (data : Word) (s : State) : Host.Outcome State Fault Refusal :=
  withFru s (pushByte s.outcap (pushedByte data) s.fru)

/-- FR.POP (R109): the only read with a side effect. -/
def execFrPop (s : State) : Host.Outcome State Fault Refusal :=
  match s.fru.outq with
  | [] => answer 0#32 s
  | b :: q => answer (doutValid b) { s with fru := { s.fru with outq := q } }

/-- WR.NONE (R102, R114): ignored. -/
def execWrNone (_reg : RegNum) (_data : Word) (s : State) : Host.Outcome State Fault Refusal := .next s

/-- RD.NONE (R101, R114): answers 0. -/
def execRdNone (_reg : RegNum) (s : State) : Host.Outcome State Fault Refusal := answer 0#32 s

end Sys2Proof.Machine
end

