-- ==== Sys2Proof/Machine/CrcOps.lean ====
section
/-! DEFINITION. The meanings of the CRC-32 unit's transactions (41_crc32.md). -/

namespace Sys2Proof.Machine

/-- CRC.INIT (R94): EXPECT is unchanged. -/
def execCrcInit (s : State) : Host.Outcome State Fault Refusal :=
  .next { s with crc := { s.crc with acc := 0xFFFFFFFF#32, cmderr := false } }

/-- CRC.CMD.RESERVED (R98): sets CRC_CMDERR only. -/
def execCrcCmdReserved (_code : Word) (s : State) : Host.Outcome State Fault Refusal :=
  .next { s with crc := { s.crc with cmderr := true } }

/-- CRC.PUSH (R92). -/
def execCrcPush (data : Word) (s : State) : Host.Outcome State Fault Refusal :=
  .next { s with crc := { s.crc with acc := crcByte s.crc.acc (pushedByte data) } }

/-- RD.CRC_VALUE (R95). -/
def execRdCrcValue (s : State) : Host.Outcome State Fault Refusal := answer (crcValue s.crc) s

/-- WR.CRC_EXPECT (R96). -/
def execWrCrcExpect (data : Word) (s : State) : Host.Outcome State Fault Refusal :=
  .next { s with crc := { s.crc with expect := data } }

/-- RD.CRC_EXPECT (R96). -/
def execRdCrcExpect (s : State) : Host.Outcome State Fault Refusal := answer s.crc.expect s

/-- RD.CRC_STATUS (R96). -/
def execRdCrcStatus (s : State) : Host.Outcome State Fault Refusal := answer (crcStatus s.crc) s

end Sys2Proof.Machine
end

