-- ==== Sys2Proof/Machine/Reads.lean ====
section
/-! DEFINITION. The meanings of the reads of the FRU's registers but FR_DOUT (42_host_transactions.md R101,
R113). -/

namespace Sys2Proof.Machine

/-- RD.FR_CFG (10_state.md R28). -/
def execRdFrCfg (s : State) : Host.Outcome State Fault Refusal := answer (frCfg s.fru) s

/-- RD.FR_WIDTH (10_state.md R29). -/
def execRdFrWidth (s : State) : Host.Outcome State Fault Refusal := answer s.fru.width s

/-- RD.FR_HEIGHT (10_state.md R29). -/
def execRdFrHeight (s : State) : Host.Outcome State Fault Refusal := answer s.fru.height s

/-- RD.FR_STATUS (42_host_transactions.md R113). -/
def execRdFrStatus (s : State) : Host.Outcome State Fault Refusal := answer (frStatus s.outcap s.fru) s

/-- RD.FR_ROW (10_state.md R31). -/
def execRdFrRow (s : State) : Host.Outcome State Fault Refusal := answer s.fru.row s

/-- RD.FR_ROWS_OUT (10_state.md R31). -/
def execRdFrRowsOut (s : State) : Host.Outcome State Fault Refusal := answer s.fru.rowsOut s

/-- RD.FR_OUTLVL (10_state.md R31). -/
def execRdFrOutlvl (s : State) : Host.Outcome State Fault Refusal :=
  answer (BitVec.ofNat 32 s.fru.outq.length) s

/-- RD.FR_FROW (10_state.md R33). -/
def execRdFrFrow (s : State) : Host.Outcome State Fault Refusal := answer s.fru.frow s

/-- RD.FR_FTAG (10_state.md R33). -/
def execRdFrFtag (s : State) : Host.Outcome State Fault Refusal := answer (frFtag s.fru) s

/-- RD.FR_MAXW (10_state.md R34). -/
def execRdFrMaxw (s : State) : Host.Outcome State Fault Refusal := answer (BitVec.ofNat 32 s.maxw) s

/-- RD.FR_OUTCAP (10_state.md R34). -/
def execRdFrOutcap (s : State) : Host.Outcome State Fault Refusal := answer (BitVec.ofNat 32 s.outcap) s

end Sys2Proof.Machine
end

