-- ==== Sys2Proof/Machine/Scanline.lean ====
section
/-! DEFINITION. The meanings of the scanline records (40_filter_reconstruction.md): the opcode is the tag,
and the FRU executes the record one byte at a time as it is pushed. The arithmetic of each opcode is its
case of `predictor`. -/

namespace Sys2Proof.Machine

/-- NONE (R70). -/
def execSlNone (filtered : List Byte) (s : State) : Host.Outcome State Fault Refusal :=
  pushRecord 0x00#8 filtered s

/-- SUB (R71). -/
def execSlSub (filtered : List Byte) (s : State) : Host.Outcome State Fault Refusal :=
  pushRecord 0x01#8 filtered s

/-- UP (R72). -/
def execSlUp (filtered : List Byte) (s : State) : Host.Outcome State Fault Refusal :=
  pushRecord 0x02#8 filtered s

/-- AVG (R73). -/
def execSlAvg (filtered : List Byte) (s : State) : Host.Outcome State Fault Refusal :=
  pushRecord 0x03#8 filtered s

/-- PAETH (R74). -/
def execSlPaeth (filtered : List Byte) (s : State) : Host.Outcome State Fault Refusal :=
  pushRecord 0x04#8 filtered s

/-- INVALID, tag 05 (R53: fail R122 or skip R81). -/
def execSlInvalid05 (filtered : List Byte) (s : State) : Host.Outcome State Fault Refusal :=
  pushRecord 0x05#8 filtered s

/-- INVALID, tags 06 and 07 (R53). -/
def execSlInvalid06 (low : BitVec 1) (filtered : List Byte) (s : State) :
    Host.Outcome State Fault Refusal :=
  pushRecord (0x03#7 ++ low) filtered s

/-- INVALID, tags 08 to 0F (R53). -/
def execSlInvalid08 (low : BitVec 3) (filtered : List Byte) (s : State) :
    Host.Outcome State Fault Refusal :=
  pushRecord (0x01#5 ++ low) filtered s

/-- INVALID, tags 10 to 1F (R53). -/
def execSlInvalid10 (low : BitVec 4) (filtered : List Byte) (s : State) :
    Host.Outcome State Fault Refusal :=
  pushRecord (0x1#4 ++ low) filtered s

/-- INVALID, tags 20 to 3F (R53). -/
def execSlInvalid20 (low : BitVec 5) (filtered : List Byte) (s : State) :
    Host.Outcome State Fault Refusal :=
  pushRecord (0x1#3 ++ low) filtered s

/-- INVALID, tags 40 to 7F (R53). -/
def execSlInvalid40 (low : BitVec 6) (filtered : List Byte) (s : State) :
    Host.Outcome State Fault Refusal :=
  pushRecord (0x1#2 ++ low) filtered s

/-- INVALID, tags 80 to FF (R53). -/
def execSlInvalid80 (low : BitVec 7) (filtered : List Byte) (s : State) :
    Host.Outcome State Fault Refusal :=
  pushRecord (0x1#1 ++ low) filtered s

end Sys2Proof.Machine
end

