-- ==== Sys2Proof/Machine/Dispatch.lean ====
section
/-! DEFINITION. One arm per instruction, each a direct call of its meaning. -/

namespace Sys2Proof.Machine

def exec (i : Instr) (s : State) : Host.Outcome State Fault Refusal :=
  match i with
  | .slNone filtered => Sys2Proof.Machine.execSlNone filtered s
  | .slSub filtered => Sys2Proof.Machine.execSlSub filtered s
  | .slUp filtered => Sys2Proof.Machine.execSlUp filtered s
  | .slAvg filtered => Sys2Proof.Machine.execSlAvg filtered s
  | .slPaeth filtered => Sys2Proof.Machine.execSlPaeth filtered s
  | .slInvalid05 filtered => Sys2Proof.Machine.execSlInvalid05 filtered s
  | .slInvalid06 low filtered => Sys2Proof.Machine.execSlInvalid06 low filtered s
  | .slInvalid08 low filtered => Sys2Proof.Machine.execSlInvalid08 low filtered s
  | .slInvalid10 low filtered => Sys2Proof.Machine.execSlInvalid10 low filtered s
  | .slInvalid20 low filtered => Sys2Proof.Machine.execSlInvalid20 low filtered s
  | .slInvalid40 low filtered => Sys2Proof.Machine.execSlInvalid40 low filtered s
  | .slInvalid80 low filtered => Sys2Proof.Machine.execSlInvalid80 low filtered s
  | .frStart => Sys2Proof.Machine.execFrStart s
  | .frEos => Sys2Proof.Machine.execFrEos s
  | .frReset => Sys2Proof.Machine.execFrReset s
  | .frCmdReserved code => Sys2Proof.Machine.execFrCmdReserved code s
  | .wrFrCfg data => Sys2Proof.Machine.execWrFrCfg data s
  | .wrFrWidth data => Sys2Proof.Machine.execWrFrWidth data s
  | .wrFrHeight data => Sys2Proof.Machine.execWrFrHeight data s
  | .frPush data => Sys2Proof.Machine.execFrPush data s
  | .rdFrCfg => Sys2Proof.Machine.execRdFrCfg s
  | .rdFrWidth => Sys2Proof.Machine.execRdFrWidth s
  | .rdFrHeight => Sys2Proof.Machine.execRdFrHeight s
  | .rdFrStatus => Sys2Proof.Machine.execRdFrStatus s
  | .rdFrRow => Sys2Proof.Machine.execRdFrRow s
  | .rdFrRowsOut => Sys2Proof.Machine.execRdFrRowsOut s
  | .frPop => Sys2Proof.Machine.execFrPop s
  | .rdFrOutlvl => Sys2Proof.Machine.execRdFrOutlvl s
  | .rdFrFrow => Sys2Proof.Machine.execRdFrFrow s
  | .rdFrFtag => Sys2Proof.Machine.execRdFrFtag s
  | .rdFrMaxw => Sys2Proof.Machine.execRdFrMaxw s
  | .rdFrOutcap => Sys2Proof.Machine.execRdFrOutcap s
  | .crcInit => Sys2Proof.Machine.execCrcInit s
  | .crcCmdReserved code => Sys2Proof.Machine.execCrcCmdReserved code s
  | .crcPush data => Sys2Proof.Machine.execCrcPush data s
  | .rdCrcValue => Sys2Proof.Machine.execRdCrcValue s
  | .wrCrcExpect data => Sys2Proof.Machine.execWrCrcExpect data s
  | .rdCrcExpect => Sys2Proof.Machine.execRdCrcExpect s
  | .rdCrcStatus => Sys2Proof.Machine.execRdCrcStatus s
  | .rdNone reg => Sys2Proof.Machine.execRdNone reg s
  | .wrNone reg data => Sys2Proof.Machine.execWrNone reg data s

end Sys2Proof.Machine
end

