-- ==== Sys2Proof/Machine/Step.lean ====
section
/-! DEFINITION. One step: the host's next input, decoded and run (42_host_transactions.md R100). -/

namespace Sys2Proof.Machine

/-- One step. With no input the block is idle: nothing changes between transactions (20_memory.md R44). -/
def step (s : State) : Host.Outcome State Fault Refusal :=
  match s.input with
  | [] => .next s
  | .hardwareReset :: rest => .next (hardwareReset rest s)
  | .code c :: rest =>
    match fetched s c with
    | .ok i => exec i (beginTransaction rest s)
    | .error e => .refused (.undecodable e)

/-- `s` with the instruction of a table row as the host's next input (log 12). -/
def State.withFetchWord (s : State) (nbits w : Nat) : State := placeTableWord s nbits w

end Sys2Proof.Machine
end

