-- ==== Sys2Proof/Safety.lean ====
section
/-! DEFINITION. The terms the statements use: the invariants of the machine (10_state.md R39), when a
scanline record can be executed and what it leaves, the filters as the specification's laws give them, and
the observations that two states can share. -/

namespace Sys2Proof.Machine

/-! ### The invariants -/

/-- The invariants of 10_state.md R39, numbered as there, with what they need to be kept by every step:
the legal parameters (00_scope.md R7), the sizes of the line buffers (10_state.md R21), the room found at
the tag (42_host_transactions.md R108), and what R33 and 60_exceptions.md R125, R134 say of the diagnostic
registers. -/
structure Inv (s : State) : Prop where
  legal : Config.Legal s.maxw s.outcap
  curLength : s.fru.cur.length = 3 * s.maxw
  priorLength : s.fru.prior.length = 3 * s.maxw
  /-- R39 (i). -/
  runRow : s.fru.state = .run → s.fru.row.toNat < s.fru.height.toNat
  /-- R39 (i). -/
  runWidth : s.fru.state = .run → s.fru.width.toNat ≤ s.maxw
  /-- R39 (i). -/
  runFill : s.fru.state = .run → s.fru.fill ≤ 3 * s.fru.width.toNat
  /-- R39 (iv): "in RUN H0 = FR_HEIGHT". -/
  runHeight : s.fru.state = .run → s.fru.h0 = s.fru.height
  /-- R39 (ii). -/
  doneFill : s.fru.state = .done → s.fru.fill = 0
  /-- R39 (ii). -/
  doneRow : s.fru.state = .done → s.fru.row = s.fru.h0
  /-- R39 (iii). -/
  causeIffFault : s.fru.cause ≠ .none ↔ s.fru.state = .fault
  /-- R39 (iv). -/
  rowsOutLe : s.fru.state = .run ∨ s.fru.state = .done → s.fru.rowsOut.toNat ≤ s.fru.row.toNat
  /-- R39 (iv). -/
  rowLe : s.fru.state = .run ∨ s.fru.state = .done → s.fru.row.toNat ≤ s.fru.h0.toNat
  /-- R39 (v). -/
  noSkipRows : s.fru.state = .run ∨ s.fru.state = .done → s.fru.skipped = false →
    s.fru.rowsOut = s.fru.row
  /-- R39 (vi). -/
  outqLe : s.fru.outq.length ≤ s.outcap
  /-- 42_host_transactions.md R108: the room found at the tag is still there. -/
  roomKept : s.fru.state = .run → 0 < s.fru.fill →
    s.fru.outq.length + 3 * s.fru.width.toNat ≤ s.outcap
  /-- R39 (vii), all but FR_CFG, FR_WIDTH, FR_HEIGHT and CMDERR. -/
  idleReset : s.fru.state = .idle →
    s.fru.row = 0#32 ∧ s.fru.rowsOut = 0#32 ∧ s.fru.fill = 0 ∧ s.fru.ft = 0#8 ∧ s.fru.outq = [] ∧
    s.fru.skipped = false ∧ s.fru.trail = false ∧ s.fru.frow = 0#32 ∧ s.fru.ftag = 0#8
  /-- 60_exceptions.md R125, R134: "FR_FROW equals ROW". -/
  faultRow : s.fru.state = .fault → s.fru.frow = s.fru.row
  /-- 60_exceptions.md R125. -/
  faultTag : s.fru.state = .fault →
    s.fru.ftag = if s.fru.cause = .unsupportedFilterTag then s.fru.ft else 0#8
  /-- 10_state.md R33: written by a fault or by the first skip only. -/
  diagClear : s.fru.state ≠ .fault → s.fru.skipped = false → s.fru.frow = 0#32 ∧ s.fru.ftag = 0#8
  /-- 10_state.md R30: a byte pushed while STATE = DONE. -/
  trailDone : s.fru.trail = true → s.fru.state = .done

/-! ### Kinds of instruction -/

/-- The transactions of the CRCU, registers 16 to 20 (20_memory.md R47). -/
def isCrc : Instr → Bool
  | .crcInit | .crcCmdReserved _ | .crcPush _ => true
  | .rdCrcValue | .wrCrcExpect _ | .rdCrcExpect | .rdCrcStatus => true
  | _ => false

/-- The reads but FR.POP (20_memory.md R43: the only read with a side effect). -/
def isPlainRead : Instr → Bool
  | .rdFrCfg | .rdFrWidth | .rdFrHeight | .rdFrStatus | .rdFrRow | .rdFrRowsOut | .rdFrOutlvl => true
  | .rdFrFrow | .rdFrFtag | .rdFrMaxw | .rdFrOutcap => true
  | .rdCrcValue | .rdCrcExpect | .rdCrcStatus | .rdNone _ => true
  | _ => false

/-- What feeds the FRU's input stream: FR.PUSH and the scanline records (20_memory.md R41). -/
def isInput : Instr → Bool
  | .frPush _ => true
  | .slNone _ | .slSub _ | .slUp _ | .slAvg _ | .slPaeth _ | .slInvalid05 _ => true
  | .slInvalid06 _ _ | .slInvalid08 _ _ | .slInvalid10 _ _ | .slInvalid20 _ _ => true
  | .slInvalid40 _ _ | .slInvalid80 _ _ => true
  | _ => false

/-- The records whose tag has no opcode (30_encoding.md R53). -/
def isInvalidRecord : Instr → Bool
  | .slInvalid05 _ | .slInvalid06 _ _ | .slInvalid08 _ _ | .slInvalid10 _ _ => true
  | .slInvalid20 _ _ | .slInvalid40 _ _ | .slInvalid80 _ _ => true
  | _ => false

/-! ### Records -/

/-- A record with these sample bytes can be executed: the FRU is in RUN at a record boundary with room for
the row (`IN_READY`, 10_state.md R30), the bytes are as many as FR_WIDTH asks for (30_encoding.md R50), and
the row fits the line buffers (20_memory.md R49). -/
structure ReadyForRecord (s : State) (filtered : List Byte) : Prop where
  run : s.fru.state = .run
  boundary : s.fru.fill = 0
  length : filtered.length = 3 * s.fru.width.toNat
  room : s.fru.outq.length + 3 * s.fru.width.toNat ≤ s.outcap
  curLength : 3 * s.fru.width.toNat ≤ s.fru.cur.length
  priorLength : 3 * s.fru.width.toNat ≤ s.fru.prior.length

/-- `row` is the raw row that reconstructs from `filtered` above `prior` under the predictor `pred`
(40_filter_reconstruction.md R75, R83), byte by byte, over the integers modulo 256. The neighbours are raw
bytes; 0 stands for the ones left of the row. -/
def IsRawRow (pred : Byte → Byte → Byte → Nat) (prior filtered row : List Byte) : Prop :=
  row.length = filtered.length ∧
  ∀ x < filtered.length,
    (row.getD x 0#8).toNat =
      ((filtered.getD x 0#8).toNat +
        pred (if 3 ≤ x then row.getD (x - 3) 0#8 else 0#8) (prior.getD x 0#8)
          (if 3 ≤ x then prior.getD (x - 3) 0#8 else 0#8)) % 256

/-- The Paeth predictor by the three distances of 40_filter_reconstruction.md R79. -/
def paethByDistances (a b c : Byte) : Nat :=
  let pa := ((b.toNat : Int) - c.toNat).natAbs
  let pb := ((a.toNat : Int) - c.toNat).natAbs
  let pc := ((a.toNat : Int) + b.toNat - 2 * c.toNat).natAbs
  if pa ≤ pb ∧ pa ≤ pc then a.toNat else if pb ≤ pc then b.toNat else c.toNat

/-- The predictor of a valid tag by the laws of 40_filter_reconstruction.md R79. -/
def lawPredictor (tag : Byte) (a b c : Byte) : Nat :=
  if tag.toNat = 0 then 0
  else if tag.toNat = 1 then a.toNat
  else if tag.toNat = 2 then b.toNat
  else if tag.toNat = 3 then (a.toNat + b.toNat) / 2
  else paethByDistances a b c

/-- What the commit of the raw row `row` under the tag `tag` leaves (40_filter_reconstruction.md R77, R82),
from a state at a record boundary; everything not named is unchanged. -/
def committed (s : State) (tag : Byte) (row : List Byte) : State :=
  { s with
    fru := { s.fru with
      ft := tag
      cur := row ++ s.fru.cur.drop row.length
      prior := row ++ s.fru.prior.drop row.length
      outq := s.fru.outq ++ row
      rowsOut := s.fru.rowsOut + 1#32
      row := s.fru.row + 1#32
      fill := 0
      state := if s.fru.row + 1#32 = s.fru.height then .done else .run } }

/-- What the skip of a record with the invalid tag `tag` leaves (40_filter_reconstruction.md R81, R82);
everything not named is unchanged. -/
def skippedRecord (s : State) (tag : Byte) : State :=
  { s with
    fru := { s.fru with
      ft := tag
      skipped := true
      frow := if s.fru.skipped then s.fru.frow else s.fru.row
      ftag := if s.fru.skipped then s.fru.ftag else tag
      row := s.fru.row + 1#32
      fill := 0
      state := if s.fru.row + 1#32 = s.fru.height then .done else .run } }

/-- What the UnsupportedFilterTag fault at the end of a record with the tag `tag` leaves (60_exceptions.md
R122, R125); everything not named is unchanged. -/
def failedRecord (s : State) (tag : Byte) : State :=
  { s with
    fru := { s.fru with
      ft := tag
      fill := 1 + 3 * s.fru.width.toNat
      state := .fault
      cause := .unsupportedFilterTag
      frow := s.fru.row
      ftag := tag } }

/-! ### The host's programs -/

/-- `fr.push` of each byte (30_encoding.md R61). -/
def frPushes (bytes : List Byte) : List HostInput :=
  bytes.map fun b => .code (encode (.frPush (b.setWidth 32)))

/-- `crc.push` of each byte (30_encoding.md R61). -/
def crcPushes (bytes : List Byte) : List HostInput :=
  bytes.map fun b => .code (encode (.crcPush (b.setWidth 32)))

/-- The CRC-32 of a message (41_crc32.md R95). -/
def crc32 (m : List Byte) : Word := m.foldl crcByte 0xFFFFFFFF#32 ^^^ 0xFFFFFFFF#32

/-! ### What the unspecified bytes may change -/

/-- Two states that differ only where 10_state.md R39 leaves the contents open (93 U3): in CUR beyond what
the record in progress has written, in CUR and PRIOR outside RUN, and in the model's reset counter. -/
structure SameButUnwritten (s t : State) : Prop where
  crc : t.crc = s.crc
  maxw : t.maxw = s.maxw
  outcap : t.outcap = s.outcap
  resp : t.resp = s.resp
  input : t.input = s.input
  fru : { t.fru with cur := s.fru.cur, prior := s.fru.prior } = s.fru
  curLength : t.fru.cur.length = s.fru.cur.length
  priorLength : t.fru.prior.length = s.fru.prior.length
  prior : s.fru.state = .run → t.fru.prior = s.fru.prior
  written : s.fru.state = .run → ∀ x < s.fru.fill - 1, s.fru.ft.toNat ≤ 4 →
    t.fru.cur.getD x 0#8 = s.fru.cur.getD x 0#8

/-- Two outcomes that only the unspecified bytes may tell apart; the same response stands on the port. -/
def SameOutcome : Host.Outcome State Fault Refusal → Host.Outcome State Fault Refusal → Prop
  | .next s, .next t => SameButUnwritten s t
  | .fault a, .fault b => a = b
  | .refused a, .refused b => a = b
  | _, _ => False

end Sys2Proof.Machine
end

