-- ==== Sys2Proof/Certificates/Slice0/Obligations.lean ====
section
/-! DEFINITION. The statements about the machine, from the numbered rules of spec/. -/

section
open Sys2Proof Sys2Proof.Machine

/-! ### Decoding and encoding -/

/-- 30_encoding.md R50 to R59: decoding the code of an instruction the table can spell gives it back. A
read is encoded with its unused data field 0 (R56, log 17), and a record is decoded at its own width (R51,
log 7). -/
def Obligations.DecodeOfEncode : Prop :=
  ∀ i : Instr, i.wellFormed = true → decode i.pixels (encode i) = .ok i

/-- 42_host_transactions.md R100 ("The decode is total"): every transaction word decodes to an instruction
the table can spell, and encoding it gives the word back, but for the data field of a read, which the block
does not use (R56): the model drops it (log 17). -/
def Obligations.EncodeOfDecodedWord : Prop :=
  ∀ w : TxWord,
    (decodeWord w).wellFormed = true ∧
    encode (decodeWord w) = .word (if w.getLsbD 38 then w else w &&& 0x7F00000000#39)

/-- 30_encoding.md R52, R53: the tag is decoded on all 8 bits, no bit of it is lost, and the tags without
an opcode are exactly 05 to FF. -/
def Obligations.EveryTagKeepsItsBits : Prop :=
  ∀ (tag : Byte) (filtered : List Byte),
    encode (decodeTag tag filtered) = .record (tag :: filtered) ∧
    (isInvalidRecord (decodeTag tag filtered) = true ↔ 5 ≤ tag.toNat)

/-- Words written out from 30_encoding.md R52, R56 to R61 and the listings of 95_test_vectors.md, read by
`decodeTableWord`. Its size of 40 bits for a transaction word, and its reading of a tag at FR_WIDTH = 0,
where the tag is the whole record (R51) and the operand `[]`, are the model's choice (log 16). -/
def Obligations.ListedWordsDecode : Prop :=
  decodeTableWord 40 0x4000000001 = some .frStart ∧
  decodeTableWord 40 0x4200000280 = some (.wrFrWidth 0x280#32) ∧
  decodeTableWord 40 0x470000000A = some (.frPush 0x0A#32) ∧
  decodeTableWord 40 0x0400000000 = some .rdFrStatus ∧
  decodeTableWord 40 0x0800000000 = some .frPop ∧
  decodeTableWord 40 0x5000000007 = some (.crcCmdReserved 7#32) ∧
  decodeTableWord 40 0x53AE426082 = some (.wrCrcExpect 0xAE426082#32) ∧
  decodeTableWord 8 0x04 = some (.slPaeth []) ∧
  decodeTableWord 8 0x77 = some (.slInvalid40 0x37#6 [])

/-! ### The step -/

/-- 42_host_transactions.md R100: a step runs the instruction the host's next code stands for under the
current FR_WIDTH (30_encoding.md R51), on the state with that code taken off the list (the model's own, log
4) and no response on the port (log 5). A code may be a whole record (log 6). -/
def Obligations.StepRunsTheDecodedInstruction : Prop :=
  ∀ (s : State) (c : Code) (rest : List HostInput) (i : Instr),
    s.input = .code c :: rest → decode s.fru.width.toNat c = .ok i →
    step s = exec i { s with input := rest, resp := none }

/-- 20_memory.md R44: "Nothing in the block changes state between transactions". The empty list of inputs
stands for it (log 4), and the last response stays (log 5). -/
def Obligations.IdleBlockChangesNothing : Prop :=
  ∀ s : State, s.input = [] → step s = .next s

/-- 10_state.md R39: the values after hardware reset, for the fields the rule gives a value; CUR and PRIOR
have their sizes, and nothing is said of their contents (log 2). The initial ACC is of the constants of R90
(log 10); the legal parameters of the instance are the model's opaque constants (log 1). -/
def Obligations.ResetLeavesTheStatedValues : Prop :=
  let s := State.reset
  s.fru.oninv = false ∧ s.fru.width = 0#32 ∧ s.fru.height = 0#32 ∧ s.fru.state = .idle ∧
  s.fru.skipped = false ∧ s.fru.trail = false ∧ s.fru.cmderr = false ∧ s.fru.cause = .none ∧
  s.fru.row = 0#32 ∧ s.fru.rowsOut = 0#32 ∧ s.fru.fill = 0 ∧ s.fru.ft = 0#8 ∧ s.fru.outq = [] ∧
  s.fru.frow = 0#32 ∧ s.fru.ftag = 0#8 ∧
  s.crc.acc = 0xFFFFFFFF#32 ∧ s.crc.expect = 0#32 ∧ s.crc.cmderr = false ∧
  s.fru.cur.length = 3 * s.maxw ∧ s.fru.prior.length = 3 * s.maxw ∧ Config.Legal s.maxw s.outcap

/-- 70_reset_and_hazards.md R140 (a): hardware reset, an item of the host's list (log 11), gives both units
in any state the values of 10_state.md R39 for every field the rule gives a value; CUR and PRIOR are some
bytes of the buffers' size (log 2); the parameters stay (R34, log 1). The initial ACC is of the constants
of R90 (log 10). `h0 = 0` is no value of R39 but the model's choice (log 9). Of the model's own fields the
host's list moves on (log 4), no response stands (log 5), and the counter is free (log 3). -/
def Obligations.HardwareResetTakesTheWholeBlock : Prop :=
  ∀ (s : State) (rest : List HostInput), s.input = .hardwareReset :: rest →
    ∃ (cur prior : List Byte) (draw : Nat),
      cur.length = 3 * s.maxw ∧ prior.length = 3 * s.maxw ∧
      step s = .next
        { fru :=
            { state := .idle, oninv := false, width := 0#32, height := 0#32, skipped := false,
              trail := false, cmderr := false, cause := .none, row := 0#32, fill := 0, ft := 0#8,
              rowsOut := 0#32, outq := [], frow := 0#32, ftag := 0#8, cur := cur, prior := prior,
              h0 := 0#32 },
          crc := { acc := 0xFFFFFFFF#32, expect := 0#32, cmderr := false },
          maxw := s.maxw, outcap := s.outcap, resp := none, input := rest, draw := draw }

/-- 10_state.md R39: the invariants, which the rule marks as derived, hold after hardware reset. The legal
parameters of the instance are the model's opaque constants (log 1); H0 is a field of the model (log 9). -/
def Obligations.InvariantHoldsAtReset : Prop := Inv State.reset

/-- 10_state.md R39: every step, from every state that meets the invariants, keeps them; the rule marks
them as derived, as R108 and R134 do what is taken from there. H0 is a field of the model (log 9), the
parameters are fields (log 1), and the steps take the inputs of the model's list (log 4): transactions,
records executed whole (log 6), hardware resets (log 11). -/
def Obligations.EveryStepKeepsTheInvariant : Prop :=
  ∀ s t : State, Inv s → step s = .next t → Inv t

/-- 42_host_transactions.md R100 ("every one completes, whatever the state"): in a state that meets the
invariants of 10_state.md R39 (derived there; H0: log 9) no instruction stops, in particular no line-buffer
index is out of range (20_memory.md R49), which would be the model's fault (log 8). A record counts as one
instruction (log 6). -/
def Obligations.EveryInstructionCompletes : Prop :=
  ∀ (s : State) (i : Instr), Inv s → ∃ t : State, exec i s = .next t

/-! ### The scanline records -/

/-- 30_encoding.md R62: a record executed as one instruction, the model's choice (log 6), is the push of
its bytes one by one. The pushes are items of the host's list (log 4). -/
def Obligations.RecordIsThePushOfItsBytes : Prop :=
  ∀ (s : State) (tag : Byte) (filtered : List Byte) (rest : List HostInput),
    filtered.length = 3 * s.fru.width.toNat →
    Host.Core.run core (1 + filtered.length)
        { s with input := frPushes (tag :: filtered) ++ rest } =
      step { s with input := .code (.record (tag :: filtered)) :: rest }

/-- 40_filter_reconstruction.md R70: NONE commits the filtered bytes verbatim; the record is one step (log
6). -/
def Obligations.NoneCommitsTheFilteredBytes : Prop :=
  ∀ (s : State) (filtered : List Byte), ReadyForRecord s filtered →
    exec (.slNone filtered) s = .next (committed s 0x00#8 filtered)

/-- 40_filter_reconstruction.md R71: each raw byte of SUB is the filtered byte plus the raw byte three to
its left, 0 in the first pixel, modulo 256; the record is one step (log 6). -/
def Obligations.SubAddsTheLeftByte : Prop :=
  ∀ (s : State) (filtered : List Byte), ReadyForRecord s filtered →
    ∃ row : List Byte, IsRawRow (fun a _ _ => a.toNat) s.fru.prior filtered row ∧
      exec (.slSub filtered) s = .next (committed s 0x01#8 row)

/-- 40_filter_reconstruction.md R72: each raw byte of UP is the filtered byte plus the byte of the prior
row above it, modulo 256; the record is one step (log 6). -/
def Obligations.UpAddsTheByteAbove : Prop :=
  ∀ (s : State) (filtered : List Byte), ReadyForRecord s filtered →
    exec (.slUp filtered) s =
      .next (committed s 0x02#8 (List.zipWith (· + ·) filtered s.fru.prior))

/-- 40_filter_reconstruction.md R73: AVG adds the floor of half the sum of left and above, the sum not
reduced modulo 256; the record is one step (log 6). -/
def Obligations.AvgAddsTheHalvedSum : Prop :=
  ∀ (s : State) (filtered : List Byte), ReadyForRecord s filtered →
    ∃ row : List Byte,
      IsRawRow (fun a b _ => (a.toNat + b.toNat) / 2) s.fru.prior filtered row ∧
      exec (.slAvg filtered) s = .next (committed s 0x03#8 row)

/-- 40_filter_reconstruction.md R74, with the distances in the form of R79, which the spec marks as derived
from R74; the record is one step (log 6). -/
def Obligations.PaethAddsTheNearestNeighbour : Prop :=
  ∀ (s : State) (filtered : List Byte), ReadyForRecord s filtered →
    ∃ row : List Byte, IsRawRow paethByDistances s.fru.prior filtered row ∧
      exec (.slPaeth filtered) s = .next (committed s 0x04#8 row)

/-- 60_exceptions.md R122: under ONINV = 0 the record of every invalid tag is consumed whole and then takes
the UnsupportedFilterTag fault (R125); the record is one step (log 6). -/
def Obligations.InvalidTagFaultsUnderFail : Prop :=
  ∀ (s : State) (filtered : List Byte), ReadyForRecord s filtered → s.fru.oninv = false →
    exec (.slInvalid05 filtered) s = .next (failedRecord s 0x05#8) ∧
    (∀ low, exec (.slInvalid06 low filtered) s = .next (failedRecord s (0x03#7 ++ low))) ∧
    (∀ low, exec (.slInvalid08 low filtered) s = .next (failedRecord s (0x01#5 ++ low))) ∧
    (∀ low, exec (.slInvalid10 low filtered) s = .next (failedRecord s (0x1#4 ++ low))) ∧
    (∀ low, exec (.slInvalid20 low filtered) s = .next (failedRecord s (0x1#3 ++ low))) ∧
    (∀ low, exec (.slInvalid40 low filtered) s = .next (failedRecord s (0x1#2 ++ low))) ∧
    (∀ low, exec (.slInvalid80 low filtered) s = .next (failedRecord s (0x1#1 ++ low)))

/-- 40_filter_reconstruction.md R81: under ONINV = 1 the record of every invalid tag is consumed whole and
skipped; the record is one step (log 6). -/
def Obligations.InvalidTagSkipsUnderSkip : Prop :=
  ∀ (s : State) (filtered : List Byte), ReadyForRecord s filtered → s.fru.oninv = true →
    exec (.slInvalid05 filtered) s = .next (skippedRecord s 0x05#8) ∧
    (∀ low, exec (.slInvalid06 low filtered) s = .next (skippedRecord s (0x03#7 ++ low))) ∧
    (∀ low, exec (.slInvalid08 low filtered) s = .next (skippedRecord s (0x01#5 ++ low))) ∧
    (∀ low, exec (.slInvalid10 low filtered) s = .next (skippedRecord s (0x1#4 ++ low))) ∧
    (∀ low, exec (.slInvalid20 low filtered) s = .next (skippedRecord s (0x1#3 ++ low))) ∧
    (∀ low, exec (.slInvalid40 low filtered) s = .next (skippedRecord s (0x1#2 ++ low))) ∧
    (∀ low, exec (.slInvalid80 low filtered) s = .next (skippedRecord s (0x1#1 ++ low)))

/-- 40_filter_reconstruction.md R83, which the spec marks as derived: a run from START over as many valid
records as FR_HEIGHT declares, with room for all of them, ends in DONE with the fold of the reconstruction
over the rows as its output. START and the records are items of the host's list (log 4), each record one
step (log 6). -/
def Obligations.ImageIsTheFoldOverItsRows : Prop :=
  ∀ (s : State) (recs : List (Byte × List Byte)),
    s.fru.width.toNat ≤ s.maxw → s.fru.cur.length = 3 * s.maxw →
    recs.length = s.fru.height.toNat → recs.length * (3 * s.fru.width.toNat) ≤ s.outcap →
    (∀ r ∈ recs, r.1.toNat ≤ 4 ∧ r.2.length = 3 * s.fru.width.toNat) →
    ∃ (rows : List (List Byte)) (t : State),
      Host.Core.run core (1 + recs.length)
        { s with
          input := .code (encode .frStart) :: recs.map (fun r => .code (.record (r.1 :: r.2))) } =
        .next t ∧
      t.fru.state = .done ∧ t.fru.row = s.fru.height ∧ t.fru.rowsOut = s.fru.height ∧
      t.fru.skipped = false ∧ t.fru.outq = rows.flatten ∧ rows.length = recs.length ∧
      ∀ (j : Nat) (r : Byte × List Byte), recs[j]? = some r →
        IsRawRow (lawPredictor r.1)
          (if j = 0 then List.replicate (3 * s.fru.width.toNat) 0#8 else rows.getD (j - 1) [])
          r.2 (rows.getD j [])

/-- 40_filter_reconstruction.md R85, which the spec marks as derived: a record made by filtering a raw row
forward, under any valid tag, commits that raw row; the record is one step (log 6). -/
def Obligations.ForwardFilteringIsReversed : Prop :=
  ∀ (s : State) (tag : Byte) (filtered raw : List Byte), ReadyForRecord s filtered →
    tag.toNat ≤ 4 → raw.length = filtered.length →
    (∀ x < raw.length,
      ((filtered.getD x 0#8).toNat : Int) =
        (((raw.getD x 0#8).toNat : Int) -
          lawPredictor tag (if 3 ≤ x then raw.getD (x - 3) 0#8 else 0#8) (s.fru.prior.getD x 0#8)
            (if 3 ≤ x then s.fru.prior.getD (x - 3) 0#8 else 0#8)) % 256) →
    exec (decodeTag tag filtered) s = .next (committed s tag raw)

/-! ### FR.PUSH -/

/-- 42_host_transactions.md R108, from the word: a push outside RUN is dropped, and in DONE sets TRAIL. -/
def Obligations.PushOutsideRunIsDropped : Prop :=
  ∀ (s : State) (data : Word),
    decodeWord (encodeTx true 7#6 data) = .frPush data ∧
    (s.fru.state = .idle ∨ s.fru.state = .fault → exec (.frPush data) s = .next s) ∧
    (s.fru.state = .done →
      exec (.frPush data) s = .next { s with fru := { s.fru with trail := true } })

/-- 40_filter_reconstruction.md R78: the push of a tag, valid or not, only enters FT and FILL when the
record has sample bytes; without any, a valid tag is the whole record and commits its empty row (R77). The
byte is bits 7:0 of the data (30_encoding.md R58). -/
def Obligations.TagPushStoresTheTag : Prop :=
  ∀ (s : State) (data : Word), s.fru.state = .run → s.fru.fill = 0 →
    s.fru.outq.length + 3 * s.fru.width.toNat ≤ s.outcap →
    (0 < s.fru.width.toNat →
      exec (.frPush data) s =
        .next { s with fru := { s.fru with ft := BitVec.ofNat 8 (data.toNat % 256), fill := 1 } }) ∧
    (s.fru.width.toNat = 0 → data.toNat % 256 ≤ 4 →
      exec (.frPush data) s = .next (committed s (BitVec.ofNat 8 (data.toNat % 256)) []))

/-- 40_filter_reconstruction.md R76: the push of a sample byte before the last of its record; under an
invalid tag it is discarded. -/
def Obligations.SamplePushWritesTheRawByte : Prop :=
  ∀ (s : State) (data : Word), s.fru.state = .run → 1 ≤ s.fru.fill →
    s.fru.fill < 3 * s.fru.width.toNat → 3 * s.fru.width.toNat ≤ s.fru.cur.length →
    3 * s.fru.width.toNat ≤ s.fru.prior.length →
    (s.fru.ft.toNat ≤ 4 →
      exec (.frPush data) s =
        .next { s with fru := { s.fru with
          fill := s.fru.fill + 1
          cur := s.fru.cur.set (s.fru.fill - 1)
            (BitVec.ofNat 8 (data.toNat % 256 +
              lawPredictor s.fru.ft
                (if 4 ≤ s.fru.fill then s.fru.cur.getD (s.fru.fill - 4) 0#8 else 0#8)
                (s.fru.prior.getD (s.fru.fill - 1) 0#8)
                (if 4 ≤ s.fru.fill then s.fru.prior.getD (s.fru.fill - 4) 0#8 else 0#8))) } }) ∧
    (5 ≤ s.fru.ft.toNat →
      exec (.frPush data) s = .next { s with fru := { s.fru with fill := s.fru.fill + 1 } })

/-- 40_filter_reconstruction.md R76, R77, R82: the push of the last sample byte of a record with a valid
tag commits the row in the same transaction. -/
def Obligations.LastSamplePushCommits : Prop :=
  ∀ (s : State) (data : Word), s.fru.state = .run → s.fru.fill = 3 * s.fru.width.toNat →
    1 ≤ s.fru.fill → s.fru.ft.toNat ≤ 4 → 3 * s.fru.width.toNat ≤ s.fru.cur.length →
    3 * s.fru.width.toNat ≤ s.fru.prior.length →
    exec (.frPush data) s =
      .next (committed s s.fru.ft
        (s.fru.cur.take (s.fru.fill - 1) ++
          [BitVec.ofNat 8 (data.toNat % 256 +
            lawPredictor s.fru.ft
              (if 4 ≤ s.fru.fill then s.fru.cur.getD (s.fru.fill - 4) 0#8 else 0#8)
              (s.fru.prior.getD (s.fru.fill - 1) 0#8)
              (if 4 ≤ s.fru.fill then s.fru.prior.getD (s.fru.fill - 4) 0#8 else 0#8))]))

/-- 40_filter_reconstruction.md R81, 60_exceptions.md R122: the push of the last byte of a record with an
invalid tag, a sample byte or the tag itself, skips the record or takes UnsupportedFilterTag. -/
def Obligations.InvalidRecordEndsAtItsLastPush : Prop :=
  ∀ (s : State) (data : Word), s.fru.state = .run →
    (s.fru.fill = 3 * s.fru.width.toNat → 1 ≤ s.fru.fill → 5 ≤ s.fru.ft.toNat →
      exec (.frPush data) s =
        .next (if s.fru.oninv then skippedRecord s s.fru.ft else failedRecord s s.fru.ft)) ∧
    (s.fru.fill = 0 → s.fru.width.toNat = 0 → s.fru.outq.length ≤ s.outcap → 5 ≤ data.toNat % 256 →
      exec (.frPush data) s =
        .next
          (if s.fru.oninv then skippedRecord s (BitVec.ofNat 8 (data.toNat % 256))
          else failedRecord s (BitVec.ofNat 8 (data.toNat % 256))))

/-- 60_exceptions.md R124, R125: the push of a tag without room for its row takes the InputOverrun fault;
the byte is dropped. -/
def Obligations.TagPushWithoutRoomFaults : Prop :=
  ∀ (s : State) (data : Word), s.fru.state = .run → s.fru.fill = 0 →
    s.outcap < s.fru.outq.length + 3 * s.fru.width.toNat →
    exec (.frPush data) s =
      .next { s with fru := { s.fru with
        state := .fault, cause := .inputOverrun, frow := s.fru.row, ftag := 0#8 } }

/-! ### FRU commands, configuration, FR.POP -/

/-- 42_host_transactions.md R103, 60_exceptions.md R123: START in every state; the width is checked before
the height. The clause `h0 := height` is in neither rule: the field H0 is the model's choice (log 9), and
that it takes FR_HEIGHT at START is from its definition in 10_state.md R39. -/
def Obligations.StartBeginsARun : Prop :=
  ∀ s : State,
    decodeWord 0x4000000001#39 = .frStart ∧
    exec .frStart s =
      .next { s with fru := { s.fru with
        row := 0#32, rowsOut := 0#32, fill := 0, ft := 0#8, outq := []
        skipped := false, trail := false, cmderr := false, frow := 0#32, ftag := 0#8
        prior := List.replicate (3 * s.maxw) 0#8
        h0 := s.fru.height
        cause := if s.fru.width.toNat ≤ s.maxw then .none else .configError
        state :=
          if s.fru.width.toNat ≤ s.maxw then
            (if s.fru.height.toNat = 0 then .done else .run)
          else .fault } }

/-- 42_host_transactions.md R104, 60_exceptions.md R121, R125: EOS takes TruncatedData in RUN, whatever
FILL and FT are, and has no effect elsewhere. -/
def Obligations.EosReportsTruncatedDataInRun : Prop :=
  ∀ s : State,
    decodeWord 0x4000000002#39 = .frEos ∧
    (s.fru.state = .run →
      exec .frEos s = .next { s with fru := { s.fru with
        state := .fault, cause := .truncatedData, frow := s.fru.row, ftag := 0#8 } }) ∧
    (s.fru.state ≠ .run → exec .frEos s = .next s)

/-- 42_host_transactions.md R105: RESET gives the FRU its reset state and leaves the CRCU; CUR and PRIOR
are some bytes of the buffers' size, and the model's own counter (log 3) is free. `h0 = 0` is no value of
R105 or R39 but the model's choice (log 9). -/
def Obligations.ResetCommandTakesTheFruAlone : Prop :=
  ∀ s : State, ∃ (cur prior : List Byte) (draw : Nat),
    decodeWord 0x4000000003#39 = .frReset ∧
    cur.length = 3 * s.maxw ∧ prior.length = 3 * s.maxw ∧
    exec .frReset s =
      .next { s with
        draw := draw
        fru :=
          { state := .idle, oninv := false, width := 0#32, height := 0#32, skipped := false,
            trail := false, cmderr := false, cause := .none, row := 0#32, fill := 0, ft := 0#8,
            rowsOut := 0#32, outq := [], frow := 0#32, ftag := 0#8, cur := cur, prior := prior,
            h0 := 0#32 } }

/-- 42_host_transactions.md R106, from the word: every code but 1, 2 and 3 sets CMDERR and nothing else, in
every state. -/
def Obligations.ReservedFruCommandSetsCmderr : Prop :=
  ∀ (s : State) (v : Word), v.toNat ≠ 1 → v.toNat ≠ 2 → v.toNat ≠ 3 →
    decodeWord (encodeTx true 0#6 v) = .frCmdReserved v ∧
    exec (.frCmdReserved v) s = .next { s with fru := { s.fru with cmderr := true } }

/-- 42_host_transactions.md R107, from the word: configuration writes store outside RUN, only bit 0 of
FR_CFG, and are ignored in RUN. -/
def Obligations.ConfigurationWritesStoreOutsideRun : Prop :=
  ∀ (s : State) (v : Word),
    (decodeWord (encodeTx true 1#6 v) = .wrFrCfg v ∧ decodeWord (encodeTx true 2#6 v) = .wrFrWidth v ∧
      decodeWord (encodeTx true 3#6 v) = .wrFrHeight v) ∧
    (s.fru.state ≠ .run →
      exec (.wrFrCfg v) s =
        .next { s with fru := { s.fru with oninv := decide (v.toNat % 2 = 1) } } ∧
      exec (.wrFrWidth v) s = .next { s with fru := { s.fru with width := v } } ∧
      exec (.wrFrHeight v) s = .next { s with fru := { s.fru with height := v } }) ∧
    (s.fru.state = .run →
      exec (.wrFrCfg v) s = .next s ∧ exec (.wrFrWidth v) s = .next s ∧
      exec (.wrFrHeight v) s = .next s)

/-- 42_host_transactions.md R109, from the word: a pop delivers the head of OUTQ with bit 31 set, or 0 from
an empty queue, in every state. The response stands in the model's own field `resp` (log 5). -/
def Obligations.PopDeliversTheHead : Prop :=
  ∀ s : State,
    decodeWord 0x0800000000#39 = .frPop ∧
    (s.fru.outq = [] → exec .frPop s = .next { s with resp := some 0#32 }) ∧
    (∀ (b : Byte) (q : List Byte), s.fru.outq = b :: q →
      exec .frPop s = .next { s with
        resp := some (0x80000000#32 + b.setWidth 32)
        fru := { s.fru with outq := q } })

/-! ### Reads, and accesses that select nothing -/

/-- 42_host_transactions.md R113: the FR_STATUS response, field by field, in the model's own field `resp`
(log 5); the read changes nothing else. -/
def Obligations.StatusReadShowsEachField : Prop :=
  ∀ s : State, ∃ v : Word,
    exec .rdFrStatus s = .next { s with resp := some v } ∧
    (v.toNat % 4 = match s.fru.state with | .idle => 0 | .run => 1 | .done => 2 | .fault => 3) ∧
    (v.getLsbD 2 = true ↔
      s.fru.state = .run ∧
        (0 < s.fru.fill ∨ s.fru.outq.length + 3 * s.fru.width.toNat ≤ s.outcap)) ∧
    (v.getLsbD 3 = true ↔ 0 < s.fru.outq.length) ∧
    v.getLsbD 4 = s.fru.skipped ∧ v.getLsbD 5 = s.fru.trail ∧ v.getLsbD 6 = s.fru.cmderr ∧
    v.getLsbD 7 = false ∧
    (v.toNat / 256 = match s.fru.cause with
      | .none => 0 | .truncatedData => 1 | .unsupportedFilterTag => 2 | .configError => 3
      | .inputOverrun => 4)

/-- 42_host_transactions.md R101: the responses (log 5) of the other reads of the FRU's registers; they
change nothing. -/
def Obligations.FruReadsShowTheirRegister : Prop :=
  ∀ s : State,
    exec .rdFrCfg s = .next { s with resp := some (if s.fru.oninv then 1#32 else 0#32) } ∧
    exec .rdFrWidth s = .next { s with resp := some s.fru.width } ∧
    exec .rdFrHeight s = .next { s with resp := some s.fru.height } ∧
    exec .rdFrRow s = .next { s with resp := some s.fru.row } ∧
    exec .rdFrRowsOut s = .next { s with resp := some s.fru.rowsOut } ∧
    exec .rdFrFrow s = .next { s with resp := some s.fru.frow } ∧
    exec .rdFrFtag s = .next { s with resp := some (s.fru.ftag.setWidth 32) } ∧
    (∀ n : Word, n.toNat = s.fru.outq.length →
      exec .rdFrOutlvl s = .next { s with resp := some n })

/-- 42_host_transactions.md R114, from the word: reserved register numbers read 0 and ignore writes,
whatever the data (a read drops it, log 17). The response stands in the model's own field `resp` (log 5).
-/
def Obligations.ReservedNumbersSelectNothing : Prop :=
  ∀ (s : State) (n : RegNum) (v : Word), n.toNat = 14 ∨ n.toNat = 15 ∨ 21 ≤ n.toNat →
    exec (decodeWord (encodeTx false n v)) s = .next { s with resp := some 0#32 } ∧
    exec (decodeWord (encodeTx true n v)) s = .next s

/-- 30_encoding.md R60 (c), (d), from the word: a write of a read-only register is ignored and a read of a
write-only register answers 0, in the model's own field `resp` (log 5), whatever its data (log 17). -/
def Obligations.WrongDirectionSelectsNothing : Prop :=
  ∀ (s : State) (n : RegNum) (v : Word),
    (n.toNat ∈ [4, 5, 6, 8, 9, 10, 11, 12, 13, 18, 20] →
      decodeWord (encodeTx true n v) = .wrNone n v ∧ exec (.wrNone n v) s = .next s) ∧
    (n.toNat ∈ [0, 7, 16, 17] →
      decodeWord (encodeTx false n v) = .rdNone n ∧
      exec (.rdNone n) s = .next { s with resp := some 0#32 })

/-! ### The CRC-32 unit -/

/-- 41_crc32.md R94, from the word: INIT; EXPECT and the FRU stay. The initial value is of the constants
of R90 (log 10). -/
def Obligations.InitBeginsAMessage : Prop :=
  ∀ s : State,
    decodeWord 0x5000000001#39 = .crcInit ∧
    exec .crcInit s = .next { s with crc := { s.crc with acc := 0xFFFFFFFF#32, cmderr := false } }

/-- 41_crc32.md R92, from the word: a push absorbs bits 7:0 of the data into ACC, in every state, by
the table form of R93; the byte function rests on the constants of R90 (log 10). -/
def Obligations.CrcPushAbsorbsAByte : Prop :=
  ∀ (s : State) (data : Word),
    decodeWord (encodeTx true 17#6 data) = .crcPush data ∧
    exec (.crcPush data) s =
      .next { s with crc := { s.crc with
        acc := crcByte 0#32 (BitVec.ofNat 8 (s.crc.acc.toNat % 256 ^^^ data.toNat % 256)) ^^^
          (s.crc.acc >>> 8) } }

/-- 41_crc32.md R93, which the spec marks as its own inference ("derived: from rule R91"): the table-driven
equivalent of the bit-serial byte function, and its selected entries, which rest on the constants of R90
(log 10). -/
def Obligations.TableFormOfTheByteFunction : Prop :=
  (∀ (c : Word) (d : Byte),
    crcByte c d = crcByte 0#32 ((c ^^^ d.setWidth 32).extractLsb' 0 8) ^^^ (c >>> 8)) ∧
  crcByte 0#32 0#8 = 0x00000000#32 ∧ crcByte 0#32 1#8 = 0x77073096#32 ∧
  crcByte 0#32 2#8 = 0xEE0E612C#32 ∧ crcByte 0#32 128#8 = 0xEDB88320#32 ∧
  crcByte 0#32 255#8 = 0x2D02EF8D#32

/-- 41_crc32.md R95: INIT, the pushes of a message and a read of CRC_VALUE, items of the host's list (log
4), answer (log 5) with the CRC-32 of the message, by the constants of R90 (log 10), and leave the FRU and
EXPECT alone. -/
def Obligations.ValueIsTheCrcOfTheMessage : Prop :=
  ∀ (s : State) (m : List Byte) (rest : List HostInput),
    Host.Core.run core (m.length + 2)
      { s with
        input := .code (encode .crcInit) :: (crcPushes m ++ .code (encode .rdCrcValue) :: rest) } =
      .next { s with
        input := rest
        resp := some (crc32 m)
        crc := { s.crc with acc := m.foldl crcByte 0xFFFFFFFF#32, cmderr := false } }

/-- 41_crc32.md R95 (the pseudocode), R96, from the words: CRC_VALUE, EXPECT and CRC_STATUS; MATCH is
computed at the read. The final complement is of the constants of R90 (log 10). The responses stand in
`resp` (log 5). -/
def Obligations.ExpectAndMatch : Prop :=
  ∀ (s : State) (v : Word),
    (decodeWord (encodeTx true 19#6 v) = .wrCrcExpect v ∧ decodeWord 0x1300000000#39 = .rdCrcExpect ∧
      decodeWord 0x1400000000#39 = .rdCrcStatus ∧ decodeWord 0x1200000000#39 = .rdCrcValue) ∧
    exec (.wrCrcExpect v) s = .next { s with crc := { s.crc with expect := v } } ∧
    exec .rdCrcExpect s = .next { s with resp := some s.crc.expect } ∧
    exec .rdCrcValue s = .next { s with resp := some (~~~ s.crc.acc) } ∧
    exec .rdCrcStatus s = .next { s with
      resp := some ((if s.crc.cmderr then 2#32 else 0#32) +
        (if ~~~ s.crc.acc = s.crc.expect then 1#32 else 0#32)) }

/-- 41_crc32.md R98, from the word: a reserved CRC_CMD code sets CRC_CMDERR and changes nothing else; INIT
and hardware reset clear it, and no other step does. Hardware reset is an item of the model's list of
inputs (log 11), as the transactions are (log 4). -/
def Obligations.ReservedCrcCommandSetsCmderr : Prop :=
  (∀ (s : State) (v : Word), v.toNat ≠ 1 →
    decodeWord (encodeTx true 16#6 v) = .crcCmdReserved v ∧
    exec (.crcCmdReserved v) s = .next { s with crc := { s.crc with cmderr := true } }) ∧
  (∀ s : State, ∃ t : State, exec .crcInit s = .next t ∧ t.crc.cmderr = false) ∧
  (∀ (s : State) (rest : List HostInput), s.input = .hardwareReset :: rest →
    ∃ t : State, step s = .next t ∧ t.crc.cmderr = false) ∧
  (∀ s t : State, step s = .next t → s.crc.cmderr = true → t.crc.cmderr = false →
    (∃ rest : List HostInput, s.input = .hardwareReset :: rest) ∨
    (∃ (c : Code) (rest : List HostInput),
      s.input = .code c :: rest ∧ decode s.fru.width.toNat c = .ok .crcInit))

/-! ### Rules about the whole machine -/

/-- 10_state.md R20, 41_crc32.md R99: no instruction of the FRU reads or writes the CRCU's state, and none
of the CRCU the FRU's. -/
def Obligations.TheUnitsShareNoState : Prop :=
  ∀ (i : Instr) (s t : State), exec i s = .next t →
    (isCrc i = false → ∀ c : Crc,
      t.crc = s.crc ∧ exec i { s with crc := c } = .next { t with crc := c }) ∧
    (isCrc i = true → ∀ f : Fru,
      t.fru = s.fru ∧ exec i { s with fru := f } = .next { t with fru := f })

/-- 10_state.md R34: FR_MAXW and FR_OUTCAP read as the parameters, which no step, reset among them,
changes. The parameters are fields of the model's State (log 1), the responses stand in `resp` (log 5), and
hardware reset is an item (log 11) of the list of inputs (log 4). -/
def Obligations.ParametersNeverChange : Prop :=
  (∀ (s : State) (n : Word), n.toNat = s.maxw →
    decodeWord 0x0C00000000#39 = .rdFrMaxw ∧ exec .rdFrMaxw s = .next { s with resp := some n }) ∧
  (∀ (s : State) (n : Word), n.toNat = s.outcap →
    decodeWord 0x0D00000000#39 = .rdFrOutcap ∧ exec .rdFrOutcap s = .next { s with resp := some n }) ∧
  (∀ s t : State, step s = .next t → t.maxw = s.maxw ∧ t.outcap = s.outcap)

/-- 10_state.md R39: "`STATE = RUN` is entered only by START". -/
def Obligations.OnlyStartEntersRun : Prop :=
  ∀ (i : Instr) (s t : State), exec i s = .next t → s.fru.state ≠ .run → t.fru.state = .run →
    i = .frStart

/-- 60_exceptions.md R128, R125: of the instructions only START and RESET leave FAULT; until then the
fault's record, the position with FT, ROWS_OUT and the line buffers stay. -/
def Obligations.FaultIsSticky : Prop :=
  ∀ (i : Instr) (s t : State), exec i s = .next t → s.fru.state = .fault →
    i ≠ .frStart → i ≠ .frReset →
    t.fru.state = .fault ∧ t.fru.cause = s.fru.cause ∧ t.fru.frow = s.fru.frow ∧
    t.fru.ftag = s.fru.ftag ∧ t.fru.row = s.fru.row ∧ t.fru.rowsOut = s.fru.rowsOut ∧
    t.fru.fill = s.fru.fill ∧ t.fru.ft = s.fru.ft ∧ t.fru.cur = s.fru.cur ∧ t.fru.prior = s.fru.prior

/-- 70_reset_and_hazards.md R150, 42_host_transactions.md R103, R107: during a run no instruction but RESET
changes the configuration. -/
def Obligations.ConfigurationIsFixedInRun : Prop :=
  ∀ (i : Instr) (s t : State), exec i s = .next t → s.fru.state = .run → i ≠ .frReset →
    t.fru.oninv = s.fru.oninv ∧ t.fru.width = s.fru.width ∧ t.fru.height = s.fru.height

/-- 10_state.md R30, R36: of the instructions only START and RESET clear SKIPPED, TRAIL and CMDERR. -/
def Obligations.StickyFlagsStay : Prop :=
  ∀ (i : Instr) (s t : State), exec i s = .next t → i ≠ .frStart → i ≠ .frReset →
    (s.fru.skipped = true → t.fru.skipped = true) ∧ (s.fru.trail = true → t.fru.trail = true) ∧
    (s.fru.cmderr = true → t.fru.cmderr = true)

/-- 60_exceptions.md R120: which instruction raises which fault, and under which condition. A record is one
instruction (log 6), so that what a push finds is said of the state the record leaves. -/
def Obligations.EachFaultHasItsOneSource : Prop :=
  ∀ (i : Instr) (s t : State), exec i s = .next t → s.fru.state ≠ .fault → t.fru.state = .fault →
    (t.fru.cause = .truncatedData ∧ i = .frEos ∧ s.fru.state = .run) ∨
    (t.fru.cause = .configError ∧ i = .frStart ∧ s.maxw < s.fru.width.toNat) ∨
    (t.fru.cause = .unsupportedFilterTag ∧ isInput i = true ∧ s.fru.state = .run ∧
      s.fru.oninv = false ∧ 5 ≤ t.fru.ft.toNat ∧ t.fru.fill = 1 + 3 * s.fru.width.toNat) ∨
    (t.fru.cause = .inputOverrun ∧ isInput i = true ∧ s.fru.state = .run ∧
      t.fru.fill = 0 ∧ s.outcap < t.fru.outq.length + 3 * s.fru.width.toNat)

/-- 10_state.md R25, R24: OUTQ is first in, first out: FR.POP takes from the head, only the input stream
adds, at the tail and in whole rows that ROWS_OUT counts, and no instruction but START and RESET discards
from it. A record is one instruction (log 6). -/
def Obligations.OutputQueueIsFirstInFirstOut : Prop :=
  ∀ (i : Instr) (s t : State), exec i s = .next t → i ≠ .frStart → i ≠ .frReset →
    (i = .frPop ∧ t.fru.outq = s.fru.outq.tail ∧ t.fru.rowsOut = s.fru.rowsOut) ∨
    (i ≠ .frPop ∧ isInput i = false ∧ t.fru.outq = s.fru.outq ∧ t.fru.rowsOut = s.fru.rowsOut) ∨
    (isInput i = true ∧ ∃ (k : Nat) (out : List Byte),
      t.fru.outq = s.fru.outq ++ out ∧ out.length = k * (3 * s.fru.width.toNat) ∧
      t.fru.rowsOut = s.fru.rowsOut + BitVec.ofNat 32 k)

/-- 10_state.md R21, R22, R23: nothing but the input stream, START and RESET moves the position pair (R23),
writes FT (R22) or writes CUR and PRIOR (R21). -/
def Obligations.OnlyInputMovesThePosition : Prop :=
  ∀ (i : Instr) (s t : State), exec i s = .next t → isInput i = false → i ≠ .frStart →
    i ≠ .frReset →
    t.fru.row = s.fru.row ∧ t.fru.fill = s.fru.fill ∧ t.fru.ft = s.fru.ft ∧
    t.fru.cur = s.fru.cur ∧ t.fru.prior = s.fru.prior

/-- 42_host_transactions.md R101: "Except for n = 8, a read changes no state"; the response, in the model's
own field `resp` (log 5), is the only thing new. -/
def Obligations.PlainReadsChangeNoState : Prop :=
  ∀ (i : Instr) (s : State), isPlainRead i = true →
    ∃ v : Word, exec i s = .next { s with resp := some v }

/-- 10_state.md R39 ("no rule reads either before it has been written"), 93_implementation_defined.md U3:
states that differ only in unspecified line-buffer bytes (free values, log 2) and in the model's reset
counter (log 3) step alike, response (log 5) for response, whichever input of the model's list comes next
(log 4): a transaction, a whole record (log 6) or a hardware reset (log 11). -/
def Obligations.UnspecifiedBytesAreNeverSeen : Prop :=
  ∀ s t : State, SameButUnwritten s t → SameOutcome (step s) (step t)

end
end

