-- ==== Sys2Proof/Laws/State.lean ====
section
/-! SUPPORT. What each state update of the shared operations leaves in each field, one lemma a field, so
that no later proof unfolds a record update. -/

namespace Sys2Proof.Machine

/-! ### `raiseFault` (60_exceptions.md R125) -/

@[simp] theorem raiseFault_state (c : Cause) (f : Fru) :
    (raiseFault c f).state = .fault := rfl
@[simp] theorem raiseFault_oninv (c : Cause) (f : Fru) :
    (raiseFault c f).oninv = f.oninv := rfl
@[simp] theorem raiseFault_width (c : Cause) (f : Fru) :
    (raiseFault c f).width = f.width := rfl
@[simp] theorem raiseFault_height (c : Cause) (f : Fru) :
    (raiseFault c f).height = f.height := rfl
@[simp] theorem raiseFault_skipped (c : Cause) (f : Fru) :
    (raiseFault c f).skipped = f.skipped := rfl
@[simp] theorem raiseFault_trail (c : Cause) (f : Fru) :
    (raiseFault c f).trail = f.trail := rfl
@[simp] theorem raiseFault_cmderr (c : Cause) (f : Fru) :
    (raiseFault c f).cmderr = f.cmderr := rfl
@[simp] theorem raiseFault_cause (c : Cause) (f : Fru) :
    (raiseFault c f).cause = c := rfl
@[simp] theorem raiseFault_row (c : Cause) (f : Fru) :
    (raiseFault c f).row = f.row := rfl
@[simp] theorem raiseFault_fill (c : Cause) (f : Fru) :
    (raiseFault c f).fill = f.fill := rfl
@[simp] theorem raiseFault_ft (c : Cause) (f : Fru) :
    (raiseFault c f).ft = f.ft := rfl
@[simp] theorem raiseFault_rowsOut (c : Cause) (f : Fru) :
    (raiseFault c f).rowsOut = f.rowsOut := rfl
@[simp] theorem raiseFault_outq (c : Cause) (f : Fru) :
    (raiseFault c f).outq = f.outq := rfl
@[simp] theorem raiseFault_frow (c : Cause) (f : Fru) :
    (raiseFault c f).frow = f.row := rfl
@[simp] theorem raiseFault_ftag (c : Cause) (f : Fru) :
    (raiseFault c f).ftag = if c = .unsupportedFilterTag then f.ft else 0#8 := rfl
@[simp] theorem raiseFault_cur (c : Cause) (f : Fru) :
    (raiseFault c f).cur = f.cur := rfl
@[simp] theorem raiseFault_prior (c : Cause) (f : Fru) :
    (raiseFault c f).prior = f.prior := rfl
@[simp] theorem raiseFault_h0 (c : Cause) (f : Fru) :
    (raiseFault c f).h0 = f.h0 := rfl

/-! ### `clearRun` (42_host_transactions.md R103) -/

@[simp] theorem clearRun_state (maxw : Nat) (f : Fru) :
    (clearRun maxw f).state = f.state := rfl
@[simp] theorem clearRun_oninv (maxw : Nat) (f : Fru) :
    (clearRun maxw f).oninv = f.oninv := rfl
@[simp] theorem clearRun_width (maxw : Nat) (f : Fru) :
    (clearRun maxw f).width = f.width := rfl
@[simp] theorem clearRun_height (maxw : Nat) (f : Fru) :
    (clearRun maxw f).height = f.height := rfl
@[simp] theorem clearRun_skipped (maxw : Nat) (f : Fru) :
    (clearRun maxw f).skipped = false := rfl
@[simp] theorem clearRun_trail (maxw : Nat) (f : Fru) :
    (clearRun maxw f).trail = false := rfl
@[simp] theorem clearRun_cmderr (maxw : Nat) (f : Fru) :
    (clearRun maxw f).cmderr = false := rfl
@[simp] theorem clearRun_cause (maxw : Nat) (f : Fru) :
    (clearRun maxw f).cause = .none := rfl
@[simp] theorem clearRun_row (maxw : Nat) (f : Fru) :
    (clearRun maxw f).row = 0#32 := rfl
@[simp] theorem clearRun_fill (maxw : Nat) (f : Fru) :
    (clearRun maxw f).fill = 0 := rfl
@[simp] theorem clearRun_ft (maxw : Nat) (f : Fru) :
    (clearRun maxw f).ft = 0#8 := rfl
@[simp] theorem clearRun_rowsOut (maxw : Nat) (f : Fru) :
    (clearRun maxw f).rowsOut = 0#32 := rfl
@[simp] theorem clearRun_outq (maxw : Nat) (f : Fru) :
    (clearRun maxw f).outq = [] := rfl
@[simp] theorem clearRun_frow (maxw : Nat) (f : Fru) :
    (clearRun maxw f).frow = 0#32 := rfl
@[simp] theorem clearRun_ftag (maxw : Nat) (f : Fru) :
    (clearRun maxw f).ftag = 0#8 := rfl
@[simp] theorem clearRun_cur (maxw : Nat) (f : Fru) :
    (clearRun maxw f).cur = f.cur := rfl
@[simp] theorem clearRun_prior (maxw : Nat) (f : Fru) :
    (clearRun maxw f).prior = List.replicate (3 * maxw) 0#8 := rfl
@[simp] theorem clearRun_h0 (maxw : Nat) (f : Fru) :
    (clearRun maxw f).h0 = f.height := rfl

/-! ### `tagStep` (40_filter_reconstruction.md R78) -/

@[simp] theorem tagStep_state (v : Byte) (f : Fru) :
    (tagStep v f).state = f.state := rfl
@[simp] theorem tagStep_oninv (v : Byte) (f : Fru) :
    (tagStep v f).oninv = f.oninv := rfl
@[simp] theorem tagStep_width (v : Byte) (f : Fru) :
    (tagStep v f).width = f.width := rfl
@[simp] theorem tagStep_height (v : Byte) (f : Fru) :
    (tagStep v f).height = f.height := rfl
@[simp] theorem tagStep_skipped (v : Byte) (f : Fru) :
    (tagStep v f).skipped = f.skipped := rfl
@[simp] theorem tagStep_trail (v : Byte) (f : Fru) :
    (tagStep v f).trail = f.trail := rfl
@[simp] theorem tagStep_cmderr (v : Byte) (f : Fru) :
    (tagStep v f).cmderr = f.cmderr := rfl
@[simp] theorem tagStep_cause (v : Byte) (f : Fru) :
    (tagStep v f).cause = f.cause := rfl
@[simp] theorem tagStep_row (v : Byte) (f : Fru) :
    (tagStep v f).row = f.row := rfl
@[simp] theorem tagStep_fill (v : Byte) (f : Fru) :
    (tagStep v f).fill = 1 := rfl
@[simp] theorem tagStep_ft (v : Byte) (f : Fru) :
    (tagStep v f).ft = v := rfl
@[simp] theorem tagStep_rowsOut (v : Byte) (f : Fru) :
    (tagStep v f).rowsOut = f.rowsOut := rfl
@[simp] theorem tagStep_outq (v : Byte) (f : Fru) :
    (tagStep v f).outq = f.outq := rfl
@[simp] theorem tagStep_frow (v : Byte) (f : Fru) :
    (tagStep v f).frow = f.frow := rfl
@[simp] theorem tagStep_ftag (v : Byte) (f : Fru) :
    (tagStep v f).ftag = f.ftag := rfl
@[simp] theorem tagStep_cur (v : Byte) (f : Fru) :
    (tagStep v f).cur = f.cur := rfl
@[simp] theorem tagStep_prior (v : Byte) (f : Fru) :
    (tagStep v f).prior = f.prior := rfl
@[simp] theorem tagStep_h0 (v : Byte) (f : Fru) :
    (tagStep v f).h0 = f.h0 := rfl

/-! ### `skipRow` (40_filter_reconstruction.md R81) -/

@[simp] theorem skipRow_state (f : Fru) :
    (skipRow f).state = f.state := rfl
@[simp] theorem skipRow_oninv (f : Fru) :
    (skipRow f).oninv = f.oninv := rfl
@[simp] theorem skipRow_width (f : Fru) :
    (skipRow f).width = f.width := rfl
@[simp] theorem skipRow_height (f : Fru) :
    (skipRow f).height = f.height := rfl
@[simp] theorem skipRow_skipped (f : Fru) :
    (skipRow f).skipped = true := rfl
@[simp] theorem skipRow_trail (f : Fru) :
    (skipRow f).trail = f.trail := rfl
@[simp] theorem skipRow_cmderr (f : Fru) :
    (skipRow f).cmderr = f.cmderr := rfl
@[simp] theorem skipRow_cause (f : Fru) :
    (skipRow f).cause = f.cause := rfl
@[simp] theorem skipRow_row (f : Fru) :
    (skipRow f).row = f.row + 1#32 := rfl
@[simp] theorem skipRow_fill (f : Fru) :
    (skipRow f).fill = 0 := rfl
@[simp] theorem skipRow_ft (f : Fru) :
    (skipRow f).ft = f.ft := rfl
@[simp] theorem skipRow_rowsOut (f : Fru) :
    (skipRow f).rowsOut = f.rowsOut := rfl
@[simp] theorem skipRow_outq (f : Fru) :
    (skipRow f).outq = f.outq := rfl
@[simp] theorem skipRow_frow (f : Fru) :
    (skipRow f).frow = if f.skipped then f.frow else f.row := rfl
@[simp] theorem skipRow_ftag (f : Fru) :
    (skipRow f).ftag = if f.skipped then f.ftag else f.ft := rfl
@[simp] theorem skipRow_cur (f : Fru) :
    (skipRow f).cur = f.cur := rfl
@[simp] theorem skipRow_prior (f : Fru) :
    (skipRow f).prior = f.prior := rfl
@[simp] theorem skipRow_h0 (f : Fru) :
    (skipRow f).h0 = f.h0 := rfl

/-! ### `resetFru` (42_host_transactions.md R105) -/

@[simp] theorem resetFru_fru (s : State) :
    (resetFru s).fru = Fru.reset s.draw s.maxw := rfl
@[simp] theorem resetFru_crc (s : State) :
    (resetFru s).crc = s.crc := rfl
@[simp] theorem resetFru_maxw (s : State) :
    (resetFru s).maxw = s.maxw := rfl
@[simp] theorem resetFru_outcap (s : State) :
    (resetFru s).outcap = s.outcap := rfl
@[simp] theorem resetFru_resp (s : State) :
    (resetFru s).resp = s.resp := rfl
@[simp] theorem resetFru_input (s : State) :
    (resetFru s).input = s.input := rfl
@[simp] theorem resetFru_draw (s : State) :
    (resetFru s).draw = s.draw + 1 := rfl

/-! ### `hardwareReset` (70_reset_and_hazards.md R140) -/

@[simp] theorem hardwareReset_fru (rest : List HostInput) (s : State) :
    (hardwareReset rest s).fru = Fru.reset s.draw s.maxw := rfl
@[simp] theorem hardwareReset_crc (rest : List HostInput) (s : State) :
    (hardwareReset rest s).crc = Crc.reset := rfl
@[simp] theorem hardwareReset_maxw (rest : List HostInput) (s : State) :
    (hardwareReset rest s).maxw = s.maxw := rfl
@[simp] theorem hardwareReset_outcap (rest : List HostInput) (s : State) :
    (hardwareReset rest s).outcap = s.outcap := rfl
@[simp] theorem hardwareReset_resp (rest : List HostInput) (s : State) :
    (hardwareReset rest s).resp = none := rfl
@[simp] theorem hardwareReset_input (rest : List HostInput) (s : State) :
    (hardwareReset rest s).input = rest := rfl
@[simp] theorem hardwareReset_draw (rest : List HostInput) (s : State) :
    (hardwareReset rest s).draw = s.draw + 1 := rfl

/-! ### `beginTransaction` (42_host_transactions.md R100) -/

@[simp] theorem beginTransaction_fru (rest : List HostInput) (s : State) :
    (beginTransaction rest s).fru = s.fru := rfl
@[simp] theorem beginTransaction_crc (rest : List HostInput) (s : State) :
    (beginTransaction rest s).crc = s.crc := rfl
@[simp] theorem beginTransaction_maxw (rest : List HostInput) (s : State) :
    (beginTransaction rest s).maxw = s.maxw := rfl
@[simp] theorem beginTransaction_outcap (rest : List HostInput) (s : State) :
    (beginTransaction rest s).outcap = s.outcap := rfl
@[simp] theorem beginTransaction_resp (rest : List HostInput) (s : State) :
    (beginTransaction rest s).resp = none := rfl
@[simp] theorem beginTransaction_input (rest : List HostInput) (s : State) :
    (beginTransaction rest s).input = rest := rfl
@[simp] theorem beginTransaction_draw (rest : List HostInput) (s : State) :
    (beginTransaction rest s).draw = s.draw := rfl

/-! ### `Fru.reset` (10_state.md R39) -/

@[simp] theorem reset_state (draw maxw : Nat) : (Fru.reset draw maxw).state = .idle := rfl
@[simp] theorem reset_oninv (draw maxw : Nat) : (Fru.reset draw maxw).oninv = false := rfl
@[simp] theorem reset_width (draw maxw : Nat) : (Fru.reset draw maxw).width = 0#32 := rfl
@[simp] theorem reset_height (draw maxw : Nat) : (Fru.reset draw maxw).height = 0#32 := rfl
@[simp] theorem reset_skipped (draw maxw : Nat) : (Fru.reset draw maxw).skipped = false := rfl
@[simp] theorem reset_trail (draw maxw : Nat) : (Fru.reset draw maxw).trail = false := rfl
@[simp] theorem reset_cmderr (draw maxw : Nat) : (Fru.reset draw maxw).cmderr = false := rfl
@[simp] theorem reset_cause (draw maxw : Nat) : (Fru.reset draw maxw).cause = .none := rfl
@[simp] theorem reset_row (draw maxw : Nat) : (Fru.reset draw maxw).row = 0#32 := rfl
@[simp] theorem reset_fill (draw maxw : Nat) : (Fru.reset draw maxw).fill = 0 := rfl
@[simp] theorem reset_ft (draw maxw : Nat) : (Fru.reset draw maxw).ft = 0#8 := rfl
@[simp] theorem reset_rowsOut (draw maxw : Nat) : (Fru.reset draw maxw).rowsOut = 0#32 := rfl
@[simp] theorem reset_outq (draw maxw : Nat) : (Fru.reset draw maxw).outq = [] := rfl
@[simp] theorem reset_frow (draw maxw : Nat) : (Fru.reset draw maxw).frow = 0#32 := rfl
@[simp] theorem reset_ftag (draw maxw : Nat) : (Fru.reset draw maxw).ftag = 0#8 := rfl
@[simp] theorem reset_h0 (draw maxw : Nat) : (Fru.reset draw maxw).h0 = 0#32 := rfl
@[simp] theorem reset_cur_length (draw maxw : Nat) :
    (Fru.reset draw maxw).cur.length = 3 * maxw := by simp [Fru.reset]
@[simp] theorem reset_prior_length (draw maxw : Nat) :
    (Fru.reset draw maxw).prior.length = 3 * maxw := by simp [Fru.reset]

end Sys2Proof.Machine
end

