-- ==== Sys2Proof/Laws/Ops.lean ====
section
/-! SUPPORT. What the shared operations can do, said once: one inversion lemma for each, which proofs cite
instead of unfolding it. -/

namespace Sys2Proof.Machine

/-! ### Tags and filters -/

/-- A tag has an opcode exactly if it is 0 to 4 (30_encoding.md R52, R53). -/
theorem filterOfTag_isSome (tag : Byte) : (filterOfTag tag).isSome = decide (tag.toNat ≤ 4) := by
  revert tag; decide

theorem filterOfTag_none_of_le {tag : Byte} (h : 5 ≤ tag.toNat) : filterOfTag tag = none := by
  have := filterOfTag_isSome tag
  rw [decide_eq_false (by omega)] at this
  simpa using this

theorem exists_filterOfTag {tag : Byte} (h : tag.toNat ≤ 4) : ∃ t, filterOfTag tag = some t := by
  have := filterOfTag_isSome tag
  rw [decide_eq_true h] at this
  exact Option.isSome_iff_exists.mp this

theorem le_of_filterOfTag {tag : Byte} {t : Filter} (h : filterOfTag tag = some t) :
    tag.toNat ≤ 4 := by
  have := filterOfTag_isSome tag
  rw [h] at this
  simpa using this.symm

/-- The predictor of every opcode is 0 to 255 (40_filter_reconstruction.md R79). -/
theorem predictor_le (t : Filter) (a b c : Byte) : predictor t a b c ≤ 255 := by
  have ha := a.isLt
  have hb := b.isLt
  have hc := c.isLt
  cases t <;> simp only [predictor, predAvg, predPaeth]
  all_goals first | omega | (split <;> [skip; split] <;> omega)

@[simp] theorem reconstruct_toNat (f : Byte) (pred : Nat) :
    (reconstruct f pred).toNat = (f.toNat + pred) % 256 := by simp [reconstruct]

/-! ### Rows -/

theorem hasRoom_iff (outcap : Nat) (f : Fru) :
    hasRoom outcap f = true ↔ f.outq.length + 3 * f.width.toNat ≤ outcap :=
  decide_eq_true_iff

theorem inLineBuffers_iff (f : Fru) (x : Nat) :
    inLineBuffers f x = true ↔ x < f.cur.length ∧ x < f.prior.length := by
  simp [inLineBuffers]

/-- What a commit does when it completes (40_filter_reconstruction.md R77). -/
theorem commitRow_ok {f g : Fru} (h : commitRow f = .ok g) :
    rowBytes f ≤ f.cur.length ∧ rowBytes f ≤ f.prior.length ∧
    g = { f with
      outq := f.outq ++ f.cur.take (rowBytes f)
      prior := f.cur.take (rowBytes f) ++ f.prior.drop (rowBytes f)
      rowsOut := f.rowsOut + 1#32
      row := f.row + 1#32
      fill := 0 } := by
  unfold commitRow at h
  split at h
  · rename_i hl
    exact ⟨hl.1, hl.2, (Except.ok.inj h).symm⟩
  · cases h

/-- A commit completes when the row fits the line buffers. -/
theorem commitRow_eq {f : Fru} (hc : rowBytes f ≤ f.cur.length) (hp : rowBytes f ≤ f.prior.length) :
    commitRow f = .ok { f with
      outq := f.outq ++ f.cur.take (rowBytes f)
      prior := f.cur.take (rowBytes f) ++ f.prior.drop (rowBytes f)
      rowsOut := f.rowsOut + 1#32
      row := f.row + 1#32
      fill := 0 } := by
  simp [commitRow, hc, hp]

/-- `endOfImage` changes STATE only, and only to DONE (40_filter_reconstruction.md R82). -/
theorem endOfImage_eq (f : Fru) :
    endOfImage f = { f with state := if f.row = f.height then .done else f.state } := by
  unfold endOfImage
  split <;> rfl

/-- Everything the completion check can do (40_filter_reconstruction.md R77). -/
theorem completionCheck_ok {f g : Fru} (h : completionCheck f = .ok g) :
    (f.fill ≠ 1 + rowBytes f ∧ g = f) ∨
    (f.fill = 1 + rowBytes f ∧ f.ft.toNat ≤ 4 ∧ ∃ c, commitRow f = .ok c ∧ g = endOfImage c) ∨
    (f.fill = 1 + rowBytes f ∧ 5 ≤ f.ft.toNat ∧ f.oninv = true ∧ g = endOfImage (skipRow f)) ∨
    (f.fill = 1 + rowBytes f ∧ 5 ≤ f.ft.toNat ∧ f.oninv = false ∧
      g = raiseFault .unsupportedFilterTag f) := by
  unfold completionCheck at h
  split at h
  case isFalse hf => exact .inl ⟨hf, (Except.ok.inj h).symm⟩
  case isTrue hf =>
    split at h
    · rename_i t ht
      refine .inr (.inl ⟨hf, le_of_filterOfTag ht, ?_⟩)
      cases hc : commitRow f with
      | error e => rw [hc] at h; cases h
      | ok c => rw [hc] at h; exact ⟨c, rfl, (Except.ok.inj h).symm⟩
    · rename_i hn
      have h5 : 5 ≤ f.ft.toNat := by
        by_contra hlt
        obtain ⟨t, ht⟩ := exists_filterOfTag (tag := f.ft) (by omega)
        rw [ht] at hn
        cases hn
      split at h
      · rename_i ho
        exact .inr (.inr (.inl ⟨hf, h5, ho, (Except.ok.inj h).symm⟩))
      · rename_i ho
        exact .inr (.inr (.inr ⟨hf, h5, by simpa using ho, (Except.ok.inj h).symm⟩))

/-- An incomplete record stays as it is. -/
theorem completionCheck_of_ne {f : Fru} (h : f.fill ≠ 1 + rowBytes f) :
    completionCheck f = .ok f := by simp [completionCheck, h]

/-- A complete record under a valid tag is committed. -/
theorem completionCheck_of_valid {f : Fru} (h : f.fill = 1 + rowBytes f) (ht : f.ft.toNat ≤ 4) :
    completionCheck f = (commitRow f).map endOfImage := by
  obtain ⟨t, ht⟩ := exists_filterOfTag ht
  simp [completionCheck, h, ht]

/-- A complete record under an invalid tag is skipped or fails, by FR_CFG.ONINV. -/
theorem completionCheck_of_invalid {f : Fru} (h : f.fill = 1 + rowBytes f) (ht : 5 ≤ f.ft.toNat) :
    completionCheck f =
      .ok (if f.oninv then endOfImage (skipRow f) else raiseFault .unsupportedFilterTag f) := by
  simp only [completionCheck, h, if_true, filterOfTag_none_of_le ht]
  split <;> rfl

/-- Everything a sample step can do (40_filter_reconstruction.md R76). -/
theorem sampleStep_ok {d : Byte} {f g : Fru} (h : sampleStep d f = .ok g) :
    (∃ t, filterOfTag f.ft = some t ∧ f.fill - 1 < f.cur.length ∧ f.fill - 1 < f.prior.length ∧
      g = { f with
        cur := f.cur.set (f.fill - 1) (rawByte t d f (f.fill - 1))
        fill := f.fill + 1 }) ∨
    (filterOfTag f.ft = none ∧ g = { f with fill := f.fill + 1 }) := by
  unfold sampleStep at h
  cases hf : filterOfTag f.ft with
  | none => rw [hf] at h; exact .inr ⟨rfl, (Except.ok.inj h).symm⟩
  | some t =>
    simp only [hf] at h
    split at h
    · rename_i hl
      obtain ⟨h1, h2⟩ := (inLineBuffers_iff _ _).mp hl
      exact .inl ⟨t, rfl, h1, h2, (Except.ok.inj h).symm⟩
    · cases h

/-- What a sample step leaves whatever the tag: only CUR and FILL change, and CUR keeps its size. -/
theorem sampleStep_frame {d : Byte} {f g : Fru} (h : sampleStep d f = .ok g) :
    g = { f with cur := g.cur, fill := f.fill + 1 } ∧ g.cur.length = f.cur.length := by
  rcases sampleStep_ok h with ⟨t, _, _, _, rfl⟩ | ⟨_, rfl⟩ <;> simp

/-! ### Pushes -/

/-- Everything the push of a byte can do (42_host_transactions.md R108). -/
theorem pushByte_ok {outcap : Nat} {d : Byte} {f g : Fru} (h : pushByte outcap d f = .ok g) :
    ((f.state = .idle ∨ f.state = .fault) ∧ g = f) ∨
    (f.state = .done ∧ g = { f with trail := true }) ∨
    (f.state = .run ∧ f.fill = 0 ∧ outcap < f.outq.length + rowBytes f ∧
      g = raiseFault .inputOverrun f) ∨
    (f.state = .run ∧ f.fill = 0 ∧ f.outq.length + rowBytes f ≤ outcap ∧
      completionCheck (tagStep d f) = .ok g) ∨
    (f.state = .run ∧ f.fill ≠ 0 ∧ ∃ m, sampleStep d f = .ok m ∧ completionCheck m = .ok g) := by
  unfold pushByte at h
  split at h
  · rename_i hs; exact .inl ⟨.inl hs, (Except.ok.inj h).symm⟩
  · rename_i hs; exact .inl ⟨.inr hs, (Except.ok.inj h).symm⟩
  · rename_i hs; exact .inr (.inl ⟨hs, (Except.ok.inj h).symm⟩)
  · rename_i hs
    unfold pushInRun at h
    split at h
    · rename_i hz
      split at h
      · rename_i hr
        exact .inr (.inr (.inr (.inl ⟨hs, hz, (hasRoom_iff _ _).mp hr, h⟩)))
      · rename_i hr
        rw [hasRoom_iff] at hr
        exact .inr (.inr (.inl ⟨hs, hz, by unfold rowBytes; omega, (Except.ok.inj h).symm⟩))
    · rename_i hz
      cases hm : sampleStep d f with
      | error e => rw [hm] at h; cases h
      | ok m => rw [hm] at h; exact .inr (.inr (.inr (.inr ⟨hs, hz, m, rfl, h⟩)))

/-- A property that the push of one byte keeps is kept by the pushes of any sequence. -/
theorem pushBytes_induct {outcap : Nat} (P : Fru → Prop)
    (hstep : ∀ d f g, P f → pushByte outcap d f = .ok g → P g) {ds : List Byte} {f g : Fru}
    (hf : P f) (h : pushBytes outcap ds f = .ok g) : P g := by
  induction ds generalizing f with
  | nil => cases h; exact hf
  | cons d ds ih =>
    simp only [pushBytes] at h
    cases hd : pushByte outcap d f with
    | error e => rw [hd] at h; cases h
    | ok m => rw [hd] at h; exact ih (hstep d f m hf hd) h

/-- Pushing two sequences one after the other is pushing their concatenation. -/
theorem pushBytes_append (outcap : Nat) (ds es : List Byte) (f : Fru) :
    pushBytes outcap (ds ++ es) f = (pushBytes outcap ds f).bind (pushBytes outcap es) := by
  induction ds generalizing f with
  | nil => rfl
  | cons d ds ih =>
    simp only [List.cons_append, pushBytes]
    cases pushByte outcap d f with
    | error e => rfl
    | ok m => exact ih m

/-- A push outside RUN (42_host_transactions.md R108). -/
theorem pushByte_of_dropped {f : Fru} (outcap : Nat) (d : Byte)
    (h : f.state = .idle ∨ f.state = .fault) : pushByte outcap d f = .ok f := by
  unfold pushByte; split <;> simp_all

theorem pushByte_of_done {f : Fru} (outcap : Nat) (d : Byte) (h : f.state = .done) :
    pushByte outcap d f = .ok { f with trail := true } := by
  unfold pushByte; split <;> simp_all

theorem pushByte_of_run {f : Fru} (outcap : Nat) (d : Byte) (h : f.state = .run) :
    pushByte outcap d f = pushInRun outcap d f := by
  unfold pushByte; split <;> simp_all

/-- What no push changes: the configuration, CMDERR, H0 and the sizes of the line buffers. -/
theorem pushByte_frame {outcap : Nat} {d : Byte} {f g : Fru} (h : pushByte outcap d f = .ok g) :
    g.oninv = f.oninv ∧ g.width = f.width ∧ g.height = f.height ∧ g.cmderr = f.cmderr ∧
    g.h0 = f.h0 ∧ g.cur.length = f.cur.length ∧ g.prior.length = f.prior.length := by
  have hcc : ∀ {m g : Fru}, completionCheck m = .ok g →
      g.oninv = m.oninv ∧ g.width = m.width ∧ g.height = m.height ∧ g.cmderr = m.cmderr ∧
      g.h0 = m.h0 ∧ g.cur.length = m.cur.length ∧ g.prior.length = m.prior.length := by
    intro m g h
    rcases completionCheck_ok h with ⟨_, rfl⟩ | ⟨_, _, c, hc, rfl⟩ | ⟨_, _, _, rfl⟩ | ⟨_, _, _, rfl⟩
    · simp
    · obtain ⟨h1, h2, rfl⟩ := commitRow_ok hc
      simp [endOfImage_eq]
      omega
    · simp [endOfImage_eq]
    · simp
  rcases pushByte_ok h with ⟨_, rfl⟩ | ⟨_, rfl⟩ | ⟨_, _, _, rfl⟩ | ⟨_, _, _, hc⟩ | ⟨_, _, m, hm, hc⟩
  · simp
  · simp
  · simp
  · simpa using hcc hc
  · have h1 := hcc hc
    obtain ⟨h2, h3⟩ := sampleStep_frame hm
    rw [h2] at h1
    simpa [h3] using h1

/-- The push of one byte as the push of a sequence. -/
theorem pushBytes_singleton (outcap : Nat) (d : Byte) (f : Fru) :
    pushBytes outcap [d] f = pushByte outcap d f := by
  simp only [pushBytes]
  cases pushByte outcap d f <;> rfl

/-- When the FRU's part of an outcome is a next state. -/
theorem withFru_next {s t : State} {r : Except Fault Fru} (h : withFru s r = .next t) :
    ∃ g, r = .ok g ∧ t = { s with fru := g } := by
  cases r with
  | error e => cases h
  | ok g => exact ⟨g, rfl, (Host.Outcome.next.inj h).symm⟩

/-! ### Transaction words -/

@[simp] theorem txIsWrite_encodeTx (b : Bool) (n : RegNum) (v : Word) :
    txIsWrite (encodeTx b n v) = b := by
  simp only [txIsWrite, encodeTx]
  rw [BitVec.getLsbD_append, BitVec.getLsbD_append]
  cases b <;> simp

@[simp] theorem txReg_encodeTx (b : Bool) (n : RegNum) (v : Word) :
    txReg (encodeTx b n v) = n := by
  simp only [txReg, encodeTx]
  ext i hi
  rw [BitVec.getElem_extractLsb', BitVec.getLsbD_append, BitVec.getLsbD_append]
  simp [show ¬ (32 + i < 32) by omega, show i < 6 by omega]

@[simp] theorem txData_encodeTx (b : Bool) (n : RegNum) (v : Word) :
    txData (encodeTx b n v) = v := by
  simp only [txData, encodeTx]
  ext i hi
  rw [BitVec.getElem_extractLsb', BitVec.getLsbD_append]
  simp [hi]

@[simp] theorem decodeWord_encodeTx (b : Bool) (n : RegNum) (v : Word) :
    decodeWord (encodeTx b n v) = if b then decodeWrite n v else decodeRead n := by
  simp [decodeWord]

end Sys2Proof.Machine
end

