-- ==== Sys2Proof/Laws/Exec.lean ====
section
/-! SUPPORT. What an instruction can do, said once over the kinds of instruction. -/

namespace Sys2Proof.Machine

/-- An instruction that feeds the FRU's input stream is the push of some bytes, the same in every state. -/
theorem exec_input {i : Instr} (h : isInput i = true) :
    ∃ ds : List Byte, ∀ s, exec i s = withFru s (pushBytes s.outcap ds s.fru) := by
  cases i
  case frPush data =>
    exact ⟨[pushedByte data], fun s => by rw [pushBytes_singleton]; rfl⟩
  case slNone fs => exact ⟨0x00#8 :: fs, fun _ => rfl⟩
  case slSub fs => exact ⟨0x01#8 :: fs, fun _ => rfl⟩
  case slUp fs => exact ⟨0x02#8 :: fs, fun _ => rfl⟩
  case slAvg fs => exact ⟨0x03#8 :: fs, fun _ => rfl⟩
  case slPaeth fs => exact ⟨0x04#8 :: fs, fun _ => rfl⟩
  case slInvalid05 fs => exact ⟨0x05#8 :: fs, fun _ => rfl⟩
  case slInvalid06 low fs => exact ⟨(0x03#7 ++ low) :: fs, fun _ => rfl⟩
  case slInvalid08 low fs => exact ⟨(0x01#5 ++ low) :: fs, fun _ => rfl⟩
  case slInvalid10 low fs => exact ⟨(0x1#4 ++ low) :: fs, fun _ => rfl⟩
  case slInvalid20 low fs => exact ⟨(0x1#3 ++ low) :: fs, fun _ => rfl⟩
  case slInvalid40 low fs => exact ⟨(0x1#2 ++ low) :: fs, fun _ => rfl⟩
  case slInvalid80 low fs => exact ⟨(0x1#1 ++ low) :: fs, fun _ => rfl⟩
  all_goals cases h

/-- The high bits of a tag that equal `p`, put before its low bits, give the tag back. -/
theorem tag_of_high_bits {tag : Byte} {k n : Nat} (h : n + k = 8) {p : BitVec n}
    (hp : tag.extractLsb' k n = p) : (p ++ tag.extractLsb' 0 k).cast h = tag := by
  subst hp
  apply BitVec.eq_of_toNat_eq
  have hlt : tag.toNat / 2 ^ k < 2 ^ n := by
    rw [Nat.div_lt_iff_lt_mul (Nat.two_pow_pos _), ← Nat.pow_add, h]; exact tag.isLt
  rw [BitVec.toNat_cast, BitVec.toNat_append, BitVec.extractLsb'_toNat, BitVec.extractLsb'_toNat,
    Nat.shiftRight_zero, ← Nat.shiftLeft_add_eq_or_of_lt (Nat.mod_lt _ (Nat.two_pow_pos _)),
    Nat.shiftLeft_eq, Nat.shiftRight_eq_div_pow, Nat.mod_eq_of_lt hlt]
  exact Nat.div_add_mod' _ _

/-- Executing the record of a tag is pushing that tag and its bytes, whichever row the tag has. -/
theorem exec_decodeTag (tag : Byte) (filtered : List Byte) (s : State) :
    exec (decodeTag tag filtered) s = pushRecord tag filtered s := by
  have ofTag : ∀ {t}, t = tag → pushRecord t filtered s = pushRecord tag filtered s :=
    fun h => by rw [h]
  unfold decodeTag
  split; · exact ofTag (Eq.symm ‹_›)
  split; · exact ofTag (Eq.symm ‹_›)
  split; · exact ofTag (Eq.symm ‹_›)
  split; · exact ofTag (Eq.symm ‹_›)
  split; · exact ofTag (Eq.symm ‹_›)
  split; · exact ofTag (Eq.symm ‹_›)
  split; · rename_i h; exact ofTag (tag_of_high_bits (k := 1) (n := 7) rfl h)
  split; · rename_i h; exact ofTag (tag_of_high_bits (k := 3) (n := 5) rfl h)
  split; · rename_i h; exact ofTag (tag_of_high_bits (k := 4) (n := 4) rfl h)
  split; · rename_i h; exact ofTag (tag_of_high_bits (k := 5) (n := 3) rfl h)
  split; · rename_i h; exact ofTag (tag_of_high_bits (k := 6) (n := 2) rfl h)
  rename_i h0 h1 h2 h3 h4 h5 h6 h8 h10 h20 h40
  refine ofTag (tag_of_high_bits (k := 7) (n := 1) rfl ?_)
  simp only [← BitVec.toNat_inj, BitVec.extractLsb'_toNat, Nat.shiftRight_eq_div_pow] at *
  simp at *
  omega

/-- What any other instruction that is not a command to START or RESET can do to the FRU. -/
theorem exec_fru_cases {i : Instr} {s t : State} (h : exec i s = .next t) (hi : isInput i = false)
    (hs : i ≠ .frStart) (hr : i ≠ .frReset) :
    t.fru = s.fru ∨
    (i = .frEos ∧ s.fru.state = .run ∧ t.fru = raiseFault .truncatedData s.fru) ∨
    (∃ code, i = .frCmdReserved code ∧ t.fru = { s.fru with cmderr := true }) ∨
    (s.fru.state ≠ .run ∧ ∃ o w hh, t.fru = { s.fru with oninv := o, width := w, height := hh }) ∨
    (i = .frPop ∧ ∃ b, s.fru.outq = b :: t.fru.outq ∧ t.fru = { s.fru with outq := t.fru.outq }) := by
  cases i
  case frStart => exact absurd rfl hs
  case frReset => exact absurd rfl hr
  case frEos =>
    cases h
    by_cases hrun : s.fru.state = .run
    · exact .inr (.inl ⟨rfl, hrun, by simp [hrun]⟩)
    · exact .inl (by simp [hrun])
  case frCmdReserved code => cases h; exact .inr (.inr (.inl ⟨code, rfl, rfl⟩))
  case wrFrCfg data =>
    cases h
    by_cases hrun : s.fru.state = .run
    · exact .inl (by simp [hrun])
    · exact .inr (.inr (.inr (.inl ⟨hrun, data.getLsbD 0, s.fru.width, s.fru.height, by simp [hrun]⟩)))
  case wrFrWidth data =>
    cases h
    by_cases hrun : s.fru.state = .run
    · exact .inl (by simp [hrun])
    · exact .inr (.inr (.inr (.inl ⟨hrun, s.fru.oninv, data, s.fru.height, by simp [hrun]⟩)))
  case wrFrHeight data =>
    cases h
    by_cases hrun : s.fru.state = .run
    · exact .inl (by simp [hrun])
    · exact .inr (.inr (.inr (.inl ⟨hrun, s.fru.oninv, s.fru.width, data, by simp [hrun]⟩)))
  case frPop =>
    have h' : execFrPop s = .next t := h
    unfold execFrPop at h'
    split at h'
    · cases h'; exact .inl rfl
    · rename_i b q hq
      cases h'
      exact .inr (.inr (.inr (.inr ⟨rfl, b, by simpa using hq, rfl⟩)))
  all_goals first | (cases h; exact .inl rfl) | (cases hi)

end Sys2Proof.Machine
end

