-- ==== Sys2Proof/Laws/PerInstr.lean ====
section
/-! SUPPORT. Per-instruction law: the code of every instruction lies in its row of spec/opcode_table.json. -/

namespace Sys2Proof.Laws.TableRow

/-- `match` and `mask` of the instruction's row of spec/opcode_table.json, bits numbered as there. -/
def row : Instr → Nat × Nat
  | .slNone _ => (0x00, 0xFF)
  | .slSub _ => (0x01, 0xFF)
  | .slUp _ => (0x02, 0xFF)
  | .slAvg _ => (0x03, 0xFF)
  | .slPaeth _ => (0x04, 0xFF)
  | .slInvalid05 _ => (0x05, 0xFF)
  | .slInvalid06 _ _ => (0x06, 0xFE)
  | .slInvalid08 _ _ => (0x08, 0xF8)
  | .slInvalid10 _ _ => (0x10, 0xF0)
  | .slInvalid20 _ _ => (0x20, 0xE0)
  | .slInvalid40 _ _ => (0x40, 0xC0)
  | .slInvalid80 _ _ => (0x80, 0x80)
  | .frStart => (0x4000000001, 0x7FFFFFFFFF)
  | .frEos => (0x4000000002, 0x7FFFFFFFFF)
  | .frReset => (0x4000000003, 0x7FFFFFFFFF)
  | .frCmdReserved _ => (0x4000000000, 0x7F00000000)
  | .wrFrCfg _ => (0x4100000000, 0x7F00000000)
  | .wrFrWidth _ => (0x4200000000, 0x7F00000000)
  | .wrFrHeight _ => (0x4300000000, 0x7F00000000)
  | .frPush _ => (0x4700000000, 0x7F00000000)
  | .rdFrCfg => (0x0100000000, 0x7F00000000)
  | .rdFrWidth => (0x0200000000, 0x7F00000000)
  | .rdFrHeight => (0x0300000000, 0x7F00000000)
  | .rdFrStatus => (0x0400000000, 0x7F00000000)
  | .rdFrRow => (0x0500000000, 0x7F00000000)
  | .rdFrRowsOut => (0x0600000000, 0x7F00000000)
  | .frPop => (0x0800000000, 0x7F00000000)
  | .rdFrOutlvl => (0x0900000000, 0x7F00000000)
  | .rdFrFrow => (0x0A00000000, 0x7F00000000)
  | .rdFrFtag => (0x0B00000000, 0x7F00000000)
  | .rdFrMaxw => (0x0C00000000, 0x7F00000000)
  | .rdFrOutcap => (0x0D00000000, 0x7F00000000)
  | .crcInit => (0x5000000001, 0x7FFFFFFFFF)
  | .crcCmdReserved _ => (0x5000000000, 0x7F00000000)
  | .crcPush _ => (0x5100000000, 0x7F00000000)
  | .rdCrcValue => (0x1200000000, 0x7F00000000)
  | .wrCrcExpect _ => (0x5300000000, 0x7F00000000)
  | .rdCrcExpect => (0x1300000000, 0x7F00000000)
  | .rdCrcStatus => (0x1400000000, 0x7F00000000)
  | .rdNone _ => (0x0000000000, 0x4000000000)
  | .wrNone _ _ => (0x4000000000, 0x4000000000)

/-- The masked bits of the instruction's code are the row's `match`; in a record they are those of the tag
(30_encoding.md R52), and the rest of it is the sample bytes (R50). -/
def Statement (i : Instr) : Prop :=
  match encode i with
  | .word w => w &&& BitVec.ofNat 39 (row i).2 = BitVec.ofNat 39 (row i).1
  | .record bytes =>
    ∃ tag : Byte, bytes = tag :: i.filtered ∧
      tag &&& BitVec.ofNat 8 (row i).2 = BitVec.ofNat 8 (row i).1

/-- The mask of a row whose data field is free keeps the direction and the register number. -/
theorem encodeTx_and (b : Bool) (n : RegNum) (v : Word) :
    encodeTx b n v &&& 0x7F00000000#39 = encodeTx b n 0#32 := by
  have h : 0x7F00000000#39 = (0x1#1 ++ 0x3F#6) ++ 0#32 := by decide
  have hb : BitVec.ofBool b &&& 0x1#1 = BitVec.ofBool b := by cases b <;> decide
  have hn : n &&& 0x3F#6 = n := by revert n; decide
  unfold encodeTx
  rw [h, BitVec.and_append, BitVec.and_append, hb, hn, BitVec.and_zero]

/-- The mask of the last two rows keeps the direction alone. -/
theorem encodeTx_and_direction (b : Bool) (n : RegNum) (v : Word) :
    encodeTx b n v &&& 0x4000000000#39 = encodeTx b 0#6 0#32 := by
  have h : 0x4000000000#39 = (0x1#1 ++ 0#6) ++ 0#32 := by decide
  have hb : BitVec.ofBool b &&& 0x1#1 = BitVec.ofBool b := by cases b <;> decide
  unfold encodeTx
  rw [h, BitVec.and_append, BitVec.and_append, hb, BitVec.and_zero, BitVec.and_zero]

theorem slNone (filtered : List Byte) : Statement (.slNone filtered) :=
  ⟨_, rfl, (by decide : 0x00#8 &&& 0xFF#8 = 0x00#8)⟩

theorem slSub (filtered : List Byte) : Statement (.slSub filtered) :=
  ⟨_, rfl, (by decide : 0x01#8 &&& 0xFF#8 = 0x01#8)⟩

theorem slUp (filtered : List Byte) : Statement (.slUp filtered) :=
  ⟨_, rfl, (by decide : 0x02#8 &&& 0xFF#8 = 0x02#8)⟩

theorem slAvg (filtered : List Byte) : Statement (.slAvg filtered) :=
  ⟨_, rfl, (by decide : 0x03#8 &&& 0xFF#8 = 0x03#8)⟩

theorem slPaeth (filtered : List Byte) : Statement (.slPaeth filtered) :=
  ⟨_, rfl, (by decide : 0x04#8 &&& 0xFF#8 = 0x04#8)⟩

theorem slInvalid05 (filtered : List Byte) : Statement (.slInvalid05 filtered) :=
  ⟨_, rfl, (by decide : 0x05#8 &&& 0xFF#8 = 0x05#8)⟩

theorem slInvalid06 (low : BitVec 1) (filtered : List Byte) : Statement (.slInvalid06 low filtered) :=
  ⟨_, rfl, (by decide : ∀ low : BitVec 1, (0x3#7 ++ low) &&& 0xFE#8 = 0x06#8) low⟩

theorem slInvalid08 (low : BitVec 3) (filtered : List Byte) : Statement (.slInvalid08 low filtered) :=
  ⟨_, rfl, (by decide : ∀ low : BitVec 3, (0x1#5 ++ low) &&& 0xF8#8 = 0x08#8) low⟩

theorem slInvalid10 (low : BitVec 4) (filtered : List Byte) : Statement (.slInvalid10 low filtered) :=
  ⟨_, rfl, (by decide : ∀ low : BitVec 4, (0x1#4 ++ low) &&& 0xF0#8 = 0x10#8) low⟩

theorem slInvalid20 (low : BitVec 5) (filtered : List Byte) : Statement (.slInvalid20 low filtered) :=
  ⟨_, rfl, (by decide : ∀ low : BitVec 5, (0x1#3 ++ low) &&& 0xE0#8 = 0x20#8) low⟩

theorem slInvalid40 (low : BitVec 6) (filtered : List Byte) : Statement (.slInvalid40 low filtered) :=
  ⟨_, rfl, (by decide : ∀ low : BitVec 6, (0x1#2 ++ low) &&& 0xC0#8 = 0x40#8) low⟩

theorem slInvalid80 (low : BitVec 7) (filtered : List Byte) : Statement (.slInvalid80 low filtered) :=
  ⟨_, rfl, (by decide : ∀ low : BitVec 7, (0x1#1 ++ low) &&& 0x80#8 = 0x80#8) low⟩

theorem frStart : Statement .frStart :=
  rfl

theorem frEos : Statement .frEos :=
  rfl

theorem frReset : Statement .frReset :=
  rfl

theorem frCmdReserved (code : Word) : Statement (.frCmdReserved code) :=
  (encodeTx_and _ _ _).trans
    (by decide : encodeTx true 0#6 0#32 = 0x4000000000#39)

theorem wrFrCfg (data : Word) : Statement (.wrFrCfg data) :=
  (encodeTx_and _ _ _).trans
    (by decide : encodeTx true 1#6 0#32 = 0x4100000000#39)

theorem wrFrWidth (data : Word) : Statement (.wrFrWidth data) :=
  (encodeTx_and _ _ _).trans
    (by decide : encodeTx true 2#6 0#32 = 0x4200000000#39)

theorem wrFrHeight (data : Word) : Statement (.wrFrHeight data) :=
  (encodeTx_and _ _ _).trans
    (by decide : encodeTx true 3#6 0#32 = 0x4300000000#39)

theorem frPush (data : Word) : Statement (.frPush data) :=
  (encodeTx_and _ _ _).trans
    (by decide : encodeTx true 7#6 0#32 = 0x4700000000#39)

theorem rdFrCfg : Statement .rdFrCfg :=
  rfl

theorem rdFrWidth : Statement .rdFrWidth :=
  rfl

theorem rdFrHeight : Statement .rdFrHeight :=
  rfl

theorem rdFrStatus : Statement .rdFrStatus :=
  rfl

theorem rdFrRow : Statement .rdFrRow :=
  rfl

theorem rdFrRowsOut : Statement .rdFrRowsOut :=
  rfl

theorem frPop : Statement .frPop :=
  rfl

theorem rdFrOutlvl : Statement .rdFrOutlvl :=
  rfl

theorem rdFrFrow : Statement .rdFrFrow :=
  rfl

theorem rdFrFtag : Statement .rdFrFtag :=
  rfl

theorem rdFrMaxw : Statement .rdFrMaxw :=
  rfl

theorem rdFrOutcap : Statement .rdFrOutcap :=
  rfl

theorem crcInit : Statement .crcInit :=
  rfl

theorem crcCmdReserved (code : Word) : Statement (.crcCmdReserved code) :=
  (encodeTx_and _ _ _).trans
    (by decide : encodeTx true 16#6 0#32 = 0x5000000000#39)

theorem crcPush (data : Word) : Statement (.crcPush data) :=
  (encodeTx_and _ _ _).trans
    (by decide : encodeTx true 17#6 0#32 = 0x5100000000#39)

theorem rdCrcValue : Statement .rdCrcValue :=
  rfl

theorem wrCrcExpect (data : Word) : Statement (.wrCrcExpect data) :=
  (encodeTx_and _ _ _).trans
    (by decide : encodeTx true 19#6 0#32 = 0x5300000000#39)

theorem rdCrcExpect : Statement .rdCrcExpect :=
  rfl

theorem rdCrcStatus : Statement .rdCrcStatus :=
  rfl

theorem rdNone (reg : RegNum) : Statement (.rdNone reg) :=
  (encodeTx_and_direction _ _ _).trans
    (by decide : encodeTx false 0#6 0#32 = 0x0000000000#39)

theorem wrNone (reg : RegNum) (data : Word) : Statement (.wrNone reg data) :=
  (encodeTx_and_direction _ _ _).trans
    (by decide : encodeTx true 0#6 0#32 = 0x4000000000#39)

end Sys2Proof.Laws.TableRow
end

