-- ==== Sys2Proof/Tests/Slice0.lean ====
section
/-! SUPPORT. Tests: ill-formed instructions, the words of the opcode table, single steps with the numbers
of 95_test_vectors.md, and for every statement with hypotheses a state and operands that meet them. -/

namespace Sys2Proof.Tests

open Sys2Proof Sys2Proof.Machine

/-! ### WellFormed -/

theorem test_illformed_reserved_fru_code :
    (Instr.frCmdReserved 1#32).wellFormed = false ∧ (Instr.frCmdReserved 2#32).wellFormed = false ∧
    (Instr.frCmdReserved 3#32).wellFormed = false := by decide

theorem test_illformed_reserved_crc_code : (Instr.crcCmdReserved 1#32).wellFormed = false := by decide

theorem test_illformed_rdNone : readableRegs.all (fun n => !(Instr.rdNone n).wellFormed) = true := by
  decide

theorem test_illformed_wrNone :
    writableRegs.all (fun n => !(Instr.wrNone n 0#32).wellFormed) = true := by decide

theorem test_illformed_record :
    (Instr.slNone [1#8]).wellFormed = false ∧ (Instr.slInvalid80 0#7 [1#8, 2#8]).wellFormed = false := by
  decide

theorem test_decode_refuses_records :
    decode 1 (.record []) = .error .emptyRecord ∧
    decode 1 (.record [0#8, 1#8, 2#8]) = .error .recordLength ∧
    decode 1 (.record [0#8, 1#8, 2#8, 3#8, 4#8]) = .error .recordLength := by decide

/-! ### Decoding: every row of the table, the words written out from 30_encoding.md -/

/-- Format SL (R50, R52, R53): the tag. -/
def recordRows : List (Nat × Instr) :=
  [(0x00, .slNone []), (0x01, .slSub []), (0x02, .slUp []), (0x03, .slAvg []), (0x04, .slPaeth []),
   (0x05, .slInvalid05 []), (0x06, .slInvalid06 0#1 []), (0x07, .slInvalid06 1#1 []),
   (0x08, .slInvalid08 0#3 []), (0x0F, .slInvalid08 7#3 []), (0x10, .slInvalid10 0#4 []),
   (0x1E, .slInvalid10 14#4 []), (0x3F, .slInvalid20 31#5 []), (0x40, .slInvalid40 0#6 []),
   (0x80, .slInvalid80 0#7 []), (0xFF, .slInvalid80 127#7 [])]

/-- Format HT, writes (R56 to R59): bit 38 set, the register number in bits 37:32. -/
def writeRows : List (Nat × Instr) :=
  [(0x4000000001, .frStart), (0x4000000002, .frEos), (0x4000000003, .frReset),
   (0x4000000000, .frCmdReserved 0#32), (0x4000000101, .frCmdReserved 0x101#32),
   (0x4100000001, .wrFrCfg 1#32), (0x42FFFFFFFF, .wrFrWidth 0xFFFFFFFF#32),
   (0x4380000001, .wrFrHeight 0x80000001#32), (0x47ABCDEF01, .frPush 0xABCDEF01#32),
   (0x5000000001, .crcInit), (0x5000000002, .crcCmdReserved 2#32),
   (0x5100000061, .crcPush 0x61#32), (0x53DEADBEEF, .wrCrcExpect 0xDEADBEEF#32),
   (0x44FFFFFFFF, .wrNone 4#6 0xFFFFFFFF#32), (0x7F00000001, .wrNone 63#6 1#32)]

/-- Format HT, reads (R56): bit 38 clear; the data field is ignored. -/
def readRows : List (Nat × Instr) :=
  [(0x0100000000, .rdFrCfg), (0x0200000000, .rdFrWidth), (0x0300000000, .rdFrHeight),
   (0x0400000000, .rdFrStatus), (0x0500000000, .rdFrRow), (0x0600000000, .rdFrRowsOut),
   (0x0800000000, .frPop), (0x0900000000, .rdFrOutlvl), (0x0A00000000, .rdFrFrow),
   (0x0B00000000, .rdFrFtag), (0x0C00000000, .rdFrMaxw), (0x0D00000000, .rdFrOutcap),
   (0x1200000000, .rdCrcValue), (0x1300000000, .rdCrcExpect), (0x1400000000, .rdCrcStatus),
   (0x0000000000, .rdNone 0#6), (0x0700000000, .rdNone 7#6), (0x3F00000000, .rdNone 63#6),
   (0x0412345678, .rdFrStatus)]

theorem test_decode_records :
    recordRows.all (fun r => decide (decodeTableWord 8 r.1 = some r.2)) = true := by decide

theorem test_decode_writes :
    writeRows.all (fun r => decide (decodeTableWord 40 r.1 = some r.2)) = true := by decide

theorem test_decode_reads :
    readRows.all (fun r => decide (decodeTableWord 40 r.1 = some r.2)) = true := by decide

/-- The operands of a record: `04 7E 3F 7E` of V54 under FR_WIDTH = 1. -/
theorem test_decode_record_operands :
    decode 1 (.record [0x04#8, 0x7E#8, 0x3F#8, 0x7E#8]) =
      .ok (.slPaeth [0x7E#8, 0x3F#8, 0x7E#8]) := by decide

/-! ### States for the steps -/

/-- The block after reset with MAXW = 4 and OUTCAP = 12 (the instance of 95_test_vectors.md section 5);
EE stands in both line buffers for the unspecified bytes. -/
def block : State :=
  { State.reset with
    maxw := 4
    outcap := 12
    fru := { Fru.reset 0 0 with cur := List.replicate 12 0xEE#8, prior := List.replicate 12 0xEE#8 } }

/-- The block with a width and a height, right after START. -/
def started (width height : Word) : State :=
  { block with fru := startRun 4 { block.fru with width := width, height := height } }

/-- A run of two rows of one pixel whose first row `10 20 30` is committed and popped. -/
def secondRow : State :=
  { started 1#32 2#32 with
    fru := { (started 1#32 2#32).fru with
      row := 1#32, rowsOut := 1#32
      cur := [0x10#8, 0x20#8, 0x30#8] ++ List.replicate 9 0xEE#8
      prior := [0x10#8, 0x20#8, 0x30#8] ++ List.replicate 9 0#8 } }

/-- A run of one row of one pixel in DONE, its row `11 22 33` in the queue (V93). -/
def finished : State :=
  { started 1#32 1#32 with
    fru := { (started 1#32 1#32).fru with
      state := .done, row := 1#32, rowsOut := 1#32, outq := [0x11#8, 0x22#8, 0x33#8]
      cur := [0x11#8, 0x22#8, 0x33#8] ++ List.replicate 9 0xEE#8
      prior := [0x11#8, 0x22#8, 0x33#8] ++ List.replicate 9 0#8 } }

/-- The fault of V106: EOS before the first byte. -/
def failed : State := { started 1#32 2#32 with fru := raiseFault .truncatedData (started 1#32 2#32).fru }

/-- What a next state shows; nothing for a stop. -/
def seen {α : Type} (view : State → α) : Host.Outcome State Fault Refusal → Option α
  | .next t => some (view t)
  | .fault _ => none
  | .refused _ => none

/-- The run state, the queue, ROW and ROWS_OUT. -/
def progress (t : State) : RunState × List Byte × Word × Word :=
  (t.fru.state, t.fru.outq, t.fru.row, t.fru.rowsOut)

/-! ### The first step after reset runs the row's instruction -/

theorem test_first_step_records :
    recordRows.all (fun r => (seen (fun _ => ()) (step (State.reset.withFetchWord 8 r.1))).isSome) = true := by
  decide

theorem test_first_step_writes :
    writeRows.all (fun r => (seen (fun _ => ()) (step (State.reset.withFetchWord 40 r.1))).isSome) = true := by
  decide

theorem test_first_step_reads :
    readRows.all (fun r => (seen (fun _ => ()) (step (State.reset.withFetchWord 40 r.1))).isSome) = true := by
  decide

/-! ### Scanline records (95_test_vectors.md sections 2, 3 and 6) -/

/-- V49, record 0. -/
theorem test_none_verbatim :
    seen progress (exec (.slNone [0xFA#8, 0x03#8, 0x80#8, 0x05#8, 0xFA#8, 0x7F#8]) (started 2#32 2#32)) =
      some (.run, [0xFA#8, 0x03#8, 0x80#8, 0x05#8, 0xFA#8, 0x7F#8], 1#32, 1#32) := by decide

/-- V50, record 0: the sums of the second pixel wrap. -/
theorem test_sub_wraps :
    seen progress (exec (.slSub [0xFA#8, 0x03#8, 0x80#8, 0x0B#8, 0xF7#8, 0xFF#8]) (started 2#32 2#32)) =
      some (.run, [0xFA#8, 0x03#8, 0x80#8, 0x05#8, 0xFA#8, 0x7F#8], 1#32, 1#32) := by decide

/-- V57: SUB accumulates along the row. -/
theorem test_sub_chain :
    seen (fun t => t.fru.outq) (exec (.slSub (List.replicate 12 0x40#8)) (started 4#32 1#32)) =
      some [0x40#8, 0x40#8, 0x40#8, 0x80#8, 0x80#8, 0x80#8, 0xC0#8, 0xC0#8, 0xC0#8, 0#8, 0#8, 0#8] := by
  decide

/-- V9, V10, V12 in one pixel, the above bytes 250, 10, 255. -/
theorem test_up_wraps :
    seen progress (exec (.slUp [10#8, 1#8, 255#8])
      { secondRow with fru := { secondRow.fru with prior := [250#8, 10#8, 255#8] } }) =
      some (.done, [4#8, 11#8, 254#8], 2#32, 2#32) := by decide

/-- V56: AVG in row 0. -/
theorem test_avg_left_chain :
    seen (fun t => t.fru.outq) (exec (.slAvg (List.replicate 9 0x64#8)) (started 3#32 1#32)) =
      some [0x64#8, 0x64#8, 0x64#8, 0x96#8, 0x96#8, 0x96#8, 0xAF#8, 0xAF#8, 0xAF#8] := by decide

/-- V54, the AVG record: a sum of 450 is halved unreduced. -/
theorem test_avg_nine_bit_sum :
    seen (fun t => t.fru.outq) (exec (.slAvg [0x87#8, 0xC7#8, 0x41#8, 0xFB#8, 0x1F#8, 0xFE#8])
      { started 2#32 3#32 with
        fru := { (started 2#32 3#32).fru with
          prior := [0xFA#8, 0x03#8, 0x80#8, 0x05#8, 0xFA#8, 0x7F#8] } }) =
      some [0x04#8, 0xC8#8, 0x81#8, 0xFF#8, 0x00#8, 0x7E#8] := by decide

/-- V54, the PAETH record: each of the three branches, p negative and p above 255. -/
theorem test_paeth_branches :
    seen (fun t => t.fru.outq) (exec (.slPaeth [0x7E#8, 0x3F#8, 0x7E#8, 0x02#8, 0xC7#8, 0x01#8])
      { started 2#32 3#32 with
        fru := { (started 2#32 3#32).fru with
          prior := [0x04#8, 0xC8#8, 0x81#8, 0xFF#8, 0x00#8, 0x7E#8] } }) =
      some [0x82#8, 0x07#8, 0xFF#8, 0x01#8, 0xC7#8, 0x00#8] := by decide

/-- V21, V28, V29, V37, V40: the ties and the order of the Paeth tests. -/
theorem test_paeth_ties :
    predPaeth 50#8 60#8 55#8 = 55 ∧ predPaeth 5#8 5#8 0#8 = 5 ∧ predPaeth 0#8 30#8 10#8 = 30 ∧
    predPaeth 30#8 10#8 20#8 = 20 ∧ predPaeth 255#8 0#8 255#8 = 0 := by decide

/-- What a fault records. -/
def diagnosis (t : State) : RunState × Cause × Word × Byte × Nat :=
  (t.fru.state, t.fru.cause, t.fru.frow, t.fru.ftag, t.fru.fill)

/-- V107. -/
theorem test_invalid05_fails :
    seen diagnosis (exec (.slInvalid05 [1#8, 2#8, 3#8]) (started 1#32 2#32)) =
      some (.fault, .unsupportedFilterTag, 0#32, 0x05#8, 4) := by decide

/-- P4a, record 1: tag 07. -/
theorem test_invalid06_fails :
    seen diagnosis (exec (.slInvalid06 1#1 [9#8, 9#8, 9#8]) secondRow) =
      some (.fault, .unsupportedFilterTag, 1#32, 0x07#8, 4) := by decide

/-- V119: tag 08. -/
theorem test_invalid08_fails :
    seen diagnosis (exec (.slInvalid08 0#3 [0#8, 0#8, 0#8]) (started 1#32 1#32)) =
      some (.fault, .unsupportedFilterTag, 0#32, 0x08#8, 4) := by decide

/-- V110 with the remaining families of tags, FR_WIDTH = 0: the tag completes the record. -/
theorem test_invalid_tags_without_samples :
    seen diagnosis (exec (.slInvalid10 0xF#4 []) (started 0#32 1#32)) =
      some (.fault, .unsupportedFilterTag, 0#32, 0x1F#8, 1) ∧
    seen diagnosis (exec (.slInvalid20 1#5 []) (started 0#32 1#32)) =
      some (.fault, .unsupportedFilterTag, 0#32, 0x21#8, 1) := by decide

/-- V110, the same for tags 77 and FF. -/
theorem test_invalid_high_tags_without_samples :
    seen diagnosis (exec (.slInvalid40 0x37#6 []) (started 0#32 1#32)) =
      some (.fault, .unsupportedFilterTag, 0#32, 0x77#8, 1) ∧
    seen diagnosis (exec (.slInvalid80 0x7F#7 []) (started 0#32 1#32)) =
      some (.fault, .unsupportedFilterTag, 0#32, 0xFF#8, 1) := by decide

/-- P4b, record 1: the skip leaves PRIOR and the queue. -/
theorem test_invalid_skipped :
    seen (fun t => (progress t, t.fru.frow, t.fru.ftag, t.fru.skipped, t.fru.prior))
      (exec (.slInvalid06 1#1 [9#8, 9#8, 9#8])
        { secondRow with fru := { secondRow.fru with oninv := true, height := 3#32 } }) =
      some ((.run, [], 2#32, 1#32), 1#32, 0x07#8, true, secondRow.fru.prior) := by decide

/-- V112: a second skip keeps FR_FROW and FR_FTAG. -/
theorem test_second_skip_keeps_first :
    seen (fun t => (t.fru.frow, t.fru.ftag)) (exec (.slInvalid80 0x08#7 [])
      { started 0#32 4#32 with
        fru := { (started 0#32 4#32).fru with
          oninv := true, row := 2#32, rowsOut := 1#32, skipped := true, frow := 1#32, ftag := 0x77#8 } }) =
      some (1#32, 0x77#8) := by decide

/-! ### Commands and configuration -/

/-- V114: the width test precedes the height test. -/
theorem test_start_config_error :
    seen diagnosis (exec .frStart { block with fru := { block.fru with width := 5#32 } }) =
      some (.fault, .configError, 0#32, 0#8, 0) := by decide

/-- V99: START in RUN abandons the run; PRIOR is zeroed. -/
theorem test_start_abandons :
    seen (fun t => (progress t, t.fru.fill, t.fru.prior)) (exec .frStart
      { finished with fru := { finished.fru with state := .run, fill := 2, ft := 0x03#8, height := 2#32 } }) =
      some ((.run, [], 0#32, 0#32), 0, List.replicate 12 0#8) := by decide

/-- V108: an invalid tag cut short is TruncatedData and FR_FTAG stays 0. -/
theorem test_eos_truncated :
    seen diagnosis (exec .frEos
      { started 1#32 2#32 with fru := { (started 1#32 2#32).fru with ft := 0xFF#8, fill := 3 } }) =
      some (.fault, .truncatedData, 0#32, 0#8, 3) := by decide

/-- V95: EOS in DONE has no effect. -/
theorem test_eos_in_done : seen (fun t => t) (exec .frEos finished) = some finished := by decide

/-- V100: RESET leaves the CRCU. -/
theorem test_reset_command :
    seen (fun t => (progress t, t.fru.width, t.crc.acc))
      (exec .frReset { finished with crc := { finished.crc with acc := 0x174841BC#32 } }) =
      some ((.idle, [], 0#32, 0#32), 0#32, 0x174841BC#32) := by decide

/-- V91: FR_STATUS reads 0x40 after a reserved code. -/
theorem test_reserved_fru_command :
    seen (fun t => frStatus t.outcap t.fru) (exec (.frCmdReserved 0x80000001#32) block) =
      some 0x00000040#32 := by decide

/-- V89: only bit 0 of FR_CFG is stored. -/
theorem test_wr_cfg :
    seen (fun t => t.fru.oninv) (exec (.wrFrCfg 0xFFFFFFFE#32) block) = some false ∧
    seen (fun t => t.fru.oninv) (exec (.wrFrCfg 0xFFFFFFFF#32) block) = some true := by decide

/-- V89, V96. -/
theorem test_wr_width :
    seen (fun t => t.fru.width) (exec (.wrFrWidth 0xFFFFFFFF#32) block) = some 0xFFFFFFFF#32 ∧
    seen (fun t => t.fru.width) (exec (.wrFrWidth 9#32) (started 1#32 2#32)) = some 1#32 := by decide

/-- V89, V96. -/
theorem test_wr_height :
    seen (fun t => t.fru.height) (exec (.wrFrHeight 0x80000001#32) block) = some 0x80000001#32 ∧
    seen (fun t => t.fru.height) (exec (.wrFrHeight 9#32) (started 1#32 2#32)) = some 2#32 := by decide

/-- V97: bits 31:8 of a pushed value are ignored. -/
theorem test_push_upper_bits :
    seen (fun t => (t.fru.ft, t.fru.fill)) (exec (.frPush 0xABCDEF01#32) (started 1#32 1#32)) =
      some (0x01#8, 1) := by decide

/-- V115: a tag without room. -/
theorem test_push_overrun :
    seen diagnosis (exec (.frPush 0#32)
      { started 2#32 2#32 with
        outcap := 6
        fru := { (started 2#32 2#32).fru with
          row := 1#32, rowsOut := 1#32, outq := [1#8, 2#8, 3#8, 4#8, 5#8, 6#8] } }) =
      some (.fault, .inputOverrun, 1#32, 0#8, 0) := by decide

/-- V93, V98: a byte arrives with bit 31 set, also the byte 0. -/
theorem test_pop :
    seen (fun t => (t.resp, t.fru.outq)) (exec .frPop finished) =
      some (some 0x80000011#32, [0x22#8, 0x33#8]) ∧
    seen (fun t => t.resp) (exec .frPop { block with fru := { block.fru with outq := [0#8] } }) =
      some (some 0x80000000#32) := by decide

/-- V88: an empty queue answers 0. -/
theorem test_pop_empty : seen (fun t => t.resp) (exec .frPop block) = some (some 0#32) := by decide

/-- V90: the write of a read-only or reserved number changes nothing. -/
theorem test_wr_none :
    seen (fun t => t) (exec (.wrNone 4#6 0xFFFFFFFF#32) block) = some block ∧
    seen (fun t => t) (exec (.wrNone 63#6 1#32) block) = some block := by decide

/-- V88. -/
theorem test_rd_none :
    seen (fun t => t.resp) (exec (.rdNone 7#6) block) = some (some 0#32) ∧
    seen (fun t => t.resp) (exec (.rdNone 63#6) block) = some (some 0#32) := by decide

/-! ### Reads -/

/-- V93: 0x00000000 in IDLE, 0x00000005 at the start of the run, 0x0000000A in DONE. -/
theorem test_rd_status :
    seen (fun t => t.resp) (exec .rdFrStatus block) = some (some 0#32) ∧
    seen (fun t => t.resp) (exec .rdFrStatus (started 1#32 1#32)) = some (some 5#32) ∧
    seen (fun t => t.resp) (exec .rdFrStatus finished) = some (some 0xA#32) := by decide

/-- V106: 0x00000103 after the fault; V94: 0x0000002A with TRAIL. -/
theorem test_rd_status_flags :
    seen (fun t => t.resp) (exec .rdFrStatus failed) = some (some 0x103#32) ∧
    seen (fun t => t.resp) (exec .rdFrStatus { finished with fru := { finished.fru with trail := true } }) =
      some (some 0x2A#32) := by decide

/-- V93, the registers of the finished run. -/
theorem test_rd_counters :
    seen (fun t => t.resp) (exec .rdFrRow finished) = some (some 1#32) ∧
    seen (fun t => t.resp) (exec .rdFrRowsOut finished) = some (some 1#32) ∧
    seen (fun t => t.resp) (exec .rdFrOutlvl finished) = some (some 3#32) := by decide

/-- V88, V103: the parameters. -/
theorem test_rd_parameters :
    seen (fun t => t.resp) (exec .rdFrMaxw block) = some (some 4#32) ∧
    seen (fun t => t.resp) (exec .rdFrOutcap block) = some (some 12#32) := by decide

/-- V89, V104 and P4a: the configuration and the diagnostic registers. -/
theorem test_rd_configuration :
    seen (fun t => t.resp) (exec .rdFrCfg { block with fru := { block.fru with oninv := true } }) =
      some (some 1#32) ∧
    seen (fun t => t.resp) (exec .rdFrWidth secondRow) = some (some 1#32) ∧
    seen (fun t => t.resp) (exec .rdFrHeight secondRow) = some (some 2#32) ∧
    seen (fun t => t.resp) (exec .rdFrFrow { block with fru := { block.fru with frow := 1#32 } }) =
      some (some 1#32) ∧
    seen (fun t => t.resp) (exec .rdFrFtag { block with fru := { block.fru with ftag := 0x07#8 } }) =
      some (some 7#32) := by decide

/-! ### The CRC-32 unit (95_test_vectors.md section 4) -/

/-- V92. -/
theorem test_crc_init :
    seen (fun t => t.crc) (exec .crcInit { block with crc := ⟨0x174841BC#32, 7#32, true⟩ }) =
      some ⟨0xFFFFFFFF#32, 7#32, false⟩ := by decide

/-- V92. -/
theorem test_crc_reserved :
    seen (fun t => t.crc) (exec (.crcCmdReserved 0#32) { block with crc := ⟨0x174841BC#32, 7#32, false⟩ }) =
      some ⟨0x174841BC#32, 7#32, true⟩ := by decide

/-- V58, V60, V66, V67. -/
theorem test_crc_byte :
    crcByte 0xFFFFFFFF#32 0x00#8 = 0x2DFD1072#32 ∧ crcByte 0xFFFFFFFF#32 0x49#8 = 0x22FDE946#32 ∧
    crcByte 0x12345678#32 0x9A#8 = 0x4E16B702#32 ∧ crcByte 0xDEADBEEF#32 0xEF#8 = 0x00DEADBE#32 := by
  decide

/-- V87: bits 31:8 of a pushed value are ignored. -/
theorem test_crc_push :
    seen (fun t => t.crc.acc) (exec (.crcPush 0xFFFFFF61#32) block) = some 0x174841BC#32 := by decide

/-- V74: the check value of 41_crc32.md R90. -/
theorem test_crc_check_value :
    crc32 [0x31#8, 0x32#8, 0x33#8, 0x34#8, 0x35#8, 0x36#8, 0x37#8, 0x38#8, 0x39#8] = 0xCBF43926#32 := by
  decide +kernel

/-- V77: the message of the terminator chunk. -/
theorem test_crc_terminator : crc32 [0x49#8, 0x45#8, 0x4E#8, 0x44#8] = 0xAE426082#32 := by decide +kernel

/-- P3, transactions 8 to 12 and 34. -/
theorem test_crc_verify :
    seen (fun t => t.resp) (exec .rdCrcValue { block with crc := ⟨0x51BD9F7D#32, 0#32, false⟩ }) =
      some (some 0xAE426082#32) ∧
    seen (fun t => t.resp) (exec .rdCrcStatus { block with crc := ⟨0x51BD9F7D#32, 0xAE426082#32, false⟩ }) =
      some (some 1#32) ∧
    seen (fun t => t.resp) (exec .rdCrcStatus { block with crc := ⟨0x51BD9F7D#32, 0xAE426083#32, false⟩ }) =
      some (some 0#32) ∧
    seen (fun t => t.resp) (exec .rdCrcStatus { block with crc := ⟨0x022B658C#32, 0xAE426083#32, true⟩ }) =
      some (some 2#32) := by decide

/-- V89. -/
theorem test_crc_expect :
    seen (fun t => t.crc.expect) (exec (.wrCrcExpect 0xDEADBEEF#32) block) = some 0xDEADBEEF#32 ∧
    seen (fun t => t.resp) (exec .rdCrcExpect { block with crc := ⟨0#32, 0xDEADBEEF#32, false⟩ }) =
      some (some 0xDEADBEEF#32) := by decide

/-! ### Witnesses: a state and operands for the hypotheses of each statement -/

/-- For the statements over `ReadyForRecord`: the widths 0, 1 and MAXW = 4, both values of ONINV. -/
theorem test_witness_ready :
    ReadyForRecord (started 0#32 2#32) [] ∧
    ReadyForRecord (started 1#32 2#32) [1#8, 2#8, 3#8] ∧
    ReadyForRecord (started 4#32 2#32) (List.replicate 12 7#8) ∧
    (started 1#32 2#32).fru.oninv = false := by
  refine ⟨?_, ?_, ?_, by decide⟩ <;> constructor <;> decide

theorem test_witness_ready_second_row : ReadyForRecord secondRow [1#8, 2#8, 3#8] := by
  constructor <;> decide

theorem test_witness_ready_skip :
    ReadyForRecord { secondRow with fru := { secondRow.fru with oninv := true } } [1#8, 2#8, 3#8] ∧
    ({ secondRow with fru := { secondRow.fru with oninv := true } } : State).fru.oninv = true := by
  constructor
  · constructor <;> decide
  · rfl

/-- DecodeOfEncode: a record, a reserved code, a read and a write that select nothing. -/
theorem test_witness_wellformed :
    (Instr.slInvalid08 3#3 [1#8, 2#8, 3#8]).wellFormed = true ∧
    (Instr.frCmdReserved 4#32).wellFormed = true ∧ (Instr.crcCmdReserved 0#32).wellFormed = true ∧
    (Instr.rdNone 21#6).wellFormed = true ∧ (Instr.wrNone 20#6 5#32).wellFormed = true := by decide

/-- EveryTagKeepsItsBits, at the boundary of the two cases. -/
theorem test_tag_boundary :
    isInvalidRecord (decodeTag 0x04#8 []) = false ∧ isInvalidRecord (decodeTag 0x05#8 []) = true := by
  decide

/-- StepRunsTheDecodedInstruction: a transaction word and a record. -/
theorem test_witness_step :
    (∃ (s : State) (c : Code) (i : Instr), s.input = [.code c] ∧ decode s.fru.width.toNat c = .ok i ∧
      i = .frPop) ∧
    (∃ (s : State) (c : Code) (i : Instr), s.input = [.code c] ∧ decode s.fru.width.toNat c = .ok i ∧
      i = .slUp [1#8, 2#8, 3#8]) :=
  ⟨⟨{ block with input := [.code (.word 0x0800000000#39)] }, _, _, rfl, by decide, rfl⟩,
    ⟨{ secondRow with input := [.code (.record [2#8, 1#8, 2#8, 3#8])] }, _, _, rfl, by decide, rfl⟩⟩

/-- IdleBlockChangesNothing and HardwareResetTakesTheWholeBlock. -/
theorem test_witness_idle_and_reset :
    secondRow.input = [] ∧
    ({ secondRow with input := [.hardwareReset, .hardwareReset] } : State).input =
      .hardwareReset :: [.hardwareReset] := by decide

/-- The invariants hold in a run, after it, after a fault and in IDLE with the host's list not empty. -/
theorem test_witness_invariant :
    Inv secondRow ∧ Inv finished ∧ Inv failed ∧
    Inv { block with input := [.code (encode (.wrFrWidth 5#32))] } := by
  refine ⟨?_, ?_, ?_, ?_⟩ <;> constructor <;>
    first | decide | (unfold Config.Legal; decide)

/-- EveryStepKeepsTheInvariant: the state above steps to a next state. -/
theorem test_witness_invariant_step :
    ∃ t, step { block with input := [.code (encode (.wrFrWidth 5#32))] } = .next t := ⟨_, rfl⟩

/-- RecordIsThePushOfItsBytes. -/
theorem test_witness_record_length :
    [0x0A#8, 0x14#8, 0x1E#8].length = 3 * secondRow.fru.width.toNat ∧
    ([] : List Byte).length = 3 * (started 0#32 1#32).fru.width.toNat := by decide

/-- ImageIsTheFoldOverItsRows: the two records of V55, and an image without rows. -/
theorem test_witness_image :
    (let s : State := { block with fru := { block.fru with width := 1#32, height := 2#32 } }
     let recs : List (Byte × List Byte) :=
       [(0x01#8, [0x10#8, 0x20#8, 0x30#8]), (0x04#8, [0x01#8, 0x02#8, 0x03#8])]
     s.fru.width.toNat ≤ s.maxw ∧ s.fru.cur.length = 3 * s.maxw ∧ recs.length = s.fru.height.toNat ∧
     recs.length * (3 * s.fru.width.toNat) ≤ s.outcap ∧
     ∀ r ∈ recs, r.1.toNat ≤ 4 ∧ r.2.length = 3 * s.fru.width.toNat) ∧
    (block.fru.width.toNat ≤ block.maxw ∧ block.fru.cur.length = 3 * block.maxw ∧
     ([] : List (Byte × List Byte)).length = block.fru.height.toNat) := by decide

/-- V55 as one image: the output of the two records. -/
theorem test_image :
    seen progress (Host.Core.run core 3
      { block with
        fru := { block.fru with width := 1#32, height := 2#32 }
        input := [.code (encode .frStart), .code (.record [0x01#8, 0x10#8, 0x20#8, 0x30#8]),
          .code (.record [0x04#8, 0x01#8, 0x02#8, 0x03#8])] }) =
      some (.done, [0x10#8, 0x20#8, 0x30#8, 0x11#8, 0x22#8, 0x33#8], 2#32, 2#32) := by decide

/-- ForwardFilteringIsReversed: raw row `11 22 33` above `10 20 30` under PAETH is filtered to `01 02 03`
(V55). -/
theorem test_witness_forward :
    ReadyForRecord secondRow [0x01#8, 0x02#8, 0x03#8] ∧
    (let raw : List Byte := [0x11#8, 0x22#8, 0x33#8]
     let filtered : List Byte := [0x01#8, 0x02#8, 0x03#8]
     raw.length = filtered.length ∧
     ∀ x < raw.length,
       ((filtered.getD x 0#8).toNat : Int) =
         (((raw.getD x 0#8).toNat : Int) -
           lawPredictor 4#8 (if 3 ≤ x then raw.getD (x - 3) 0#8 else 0#8)
             (secondRow.fru.prior.getD x 0#8)
             (if 3 ≤ x then secondRow.fru.prior.getD (x - 3) 0#8 else 0#8)) % 256) := by
  constructor
  · constructor <;> decide
  · decide

/-- PushOutsideRunIsDropped and EosReportsTruncatedDataInRun, ConfigurationWritesStoreOutsideRun: the four
values of STATE. -/
theorem test_witness_states :
    block.fru.state = .idle ∧ failed.fru.state = .fault ∧ finished.fru.state = .done ∧
    secondRow.fru.state = .run := by decide

/-- V94: a push in IDLE and in DONE. -/
theorem test_push_outside_run :
    seen (fun t => t) (exec (.frPush 0x55#32) block) = some block ∧
    seen (fun t => (progress t, t.fru.trail)) (exec (.frPush 0x55#32) finished) =
      some ((.done, [0x11#8, 0x22#8, 0x33#8], 1#32, 1#32), true) := by decide

/-- TagPushStoresTheTag: the room is exactly enough (V116); and a record that is the tag alone (V118). -/
theorem test_witness_tag_push :
    (let s : State := { secondRow with outcap := 3 }
     s.fru.state = .run ∧ s.fru.fill = 0 ∧ s.fru.outq.length + 3 * s.fru.width.toNat ≤ s.outcap ∧
     0 < s.fru.width.toNat) ∧
    (let s : State := started 0#32 3#32
     s.fru.state = .run ∧ s.fru.fill = 0 ∧ s.fru.outq.length + 3 * s.fru.width.toNat ≤ s.outcap ∧
     s.fru.width.toNat = 0 ∧ (4#32).toNat % 256 ≤ 4) := by decide

/-- InvalidRecordEndsAtItsLastPush: both clauses, the second with `0x00000105` for the tag 05. -/
theorem test_witness_invalid_push :
    (let f : Fru := { secondRow.fru with fill := 3, ft := 5#8 }
     f.state = .run ∧ f.fill = 3 * f.width.toNat ∧ 1 ≤ f.fill ∧ 5 ≤ f.ft.toNat) ∧
    (let s : State := started 0#32 3#32
     s.fru.state = .run ∧ s.fru.fill = 0 ∧ s.fru.width.toNat = 0 ∧ s.fru.outq.length ≤ s.outcap ∧
     5 ≤ (0x105#32).toNat % 256) := by decide

/-- P4a, transaction 12: the last push of a record with tag 07. -/
theorem test_invalid_last_push :
    seen diagnosis (exec (.frPush 9#32)
      { secondRow with fru := { secondRow.fru with fill := 3, ft := 0x07#8 } }) =
      some (.fault, .unsupportedFilterTag, 1#32, 0x07#8, 4) := by decide

/-- V93: the last push of the record commits and, the rows being complete, enters DONE. -/
theorem test_last_push_commits :
    seen progress (exec (.frPush 0x33#32)
      { started 1#32 1#32 with
        fru := { (started 1#32 1#32).fru with
          fill := 3, cur := [0x11#8, 0x22#8, 0xEE#8] ++ List.replicate 9 0xEE#8 } }) =
      some (.done, [0x11#8, 0x22#8, 0x33#8], 1#32, 1#32) := by decide

/-- TagPushWithoutRoomFaults: one byte too few, and a queue that is full. -/
theorem test_witness_overrun :
    (let s : State := { secondRow with outcap := 2 }
     s.fru.state = .run ∧ s.fru.fill = 0 ∧ s.outcap < s.fru.outq.length + 3 * s.fru.width.toNat) := by
  decide

/-- SamplePushWritesTheRawByte: the first and the last but one sample byte of a pixel, the tags 4 and 5. -/
theorem test_witness_sample_push :
    (∀ fill ∈ [1, 2],
      let f : Fru := { secondRow.fru with fill := fill, ft := 4#8 }
      f.state = .run ∧ 1 ≤ f.fill ∧ f.fill < 3 * f.width.toNat ∧ 3 * f.width.toNat ≤ f.cur.length ∧
      3 * f.width.toNat ≤ f.prior.length ∧ f.ft.toNat ≤ 4) ∧
    5 ≤ ({ secondRow.fru with fill := 2, ft := 5#8 } : Fru).ft.toNat := by decide

/-- LastSamplePushCommits: FILL = 3 with one pixel. -/
theorem test_witness_last_push :
    (let f : Fru := { secondRow.fru with fill := 3, ft := 2#8 }
     f.state = .run ∧ f.fill = 3 * f.width.toNat ∧ 1 ≤ f.fill ∧ f.ft.toNat ≤ 4 ∧
     3 * f.width.toNat ≤ f.cur.length ∧ 3 * f.width.toNat ≤ f.prior.length) := by decide

/-- The boundary values of FR_WIDTH at START: MAXW and MAXW + 1; and no rows (V114, V117). -/
theorem test_start_boundaries :
    seen (fun t => t.fru.state) (exec .frStart
      { block with fru := { block.fru with width := 4#32, height := 1#32 } }) = some .run ∧
    seen (fun t => t.fru.state) (exec .frStart
      { block with fru := { block.fru with width := 5#32, height := 0#32 } }) = some .fault ∧
    seen (fun t => t.fru.state) (exec .frStart
      { block with fru := { block.fru with width := 4#32, height := 0#32 } }) = some .done := by decide

/-- ReservedFruCommandSetsCmderr and ReservedCrcCommandSetsCmderr: the codes beside the defined ones. -/
theorem test_witness_reserved_codes :
    (∀ v ∈ [0#32, 4#32, 0x101#32, 0x80000001#32], v.toNat ≠ 1 ∧ v.toNat ≠ 2 ∧ v.toNat ≠ 3) ∧
    (∀ v ∈ [0#32, 2#32], v.toNat ≠ 1) := by simp

/-- PopDeliversTheHead: both clauses. -/
theorem test_witness_pop :
    block.fru.outq = [] ∧ finished.fru.outq = 0x11#8 :: [0x22#8, 0x33#8] := by decide

/-- FruReadsShowTheirRegister: the words for FR_OUTLVL, FR_MAXW and FR_OUTCAP. -/
theorem test_witness_read_words :
    (3#32).toNat = finished.fru.outq.length ∧ (4#32).toNat = finished.maxw ∧
    (12#32).toNat = finished.outcap := by decide

/-- ReservedNumbersSelectNothing and WrongDirectionSelectsNothing: the boundary numbers. -/
theorem test_witness_numbers :
    (∀ n ∈ [14#6, 15#6, 21#6, 63#6], n.toNat = 14 ∨ n.toNat = 15 ∨ 21 ≤ n.toNat) ∧
    (∀ n ∈ [4#6, 13#6, 20#6], n.toNat ∈ [4, 5, 6, 8, 9, 10, 11, 12, 13, 18, 20]) ∧
    (∀ n ∈ [0#6, 7#6, 16#6, 17#6], n.toNat ∈ [0, 7, 16, 17]) := by decide

/-- FaultIsSticky. -/
theorem test_witness_fault_sticky :
    failed.fru.state = .fault ∧ Instr.frPush 0#32 ≠ .frStart ∧ Instr.frPush 0#32 ≠ .frReset ∧
    ∃ t, exec (.frPush 0#32) failed = .next t := ⟨by decide, by decide, by decide, _, rfl⟩

/-- ConfigurationIsFixedInRun: a configuration write in RUN. -/
theorem test_witness_configuration :
    secondRow.fru.state = .run ∧ Instr.wrFrCfg 1#32 ≠ .frReset ∧
    ∃ t, exec (.wrFrCfg 1#32) secondRow = .next t := ⟨by decide, by decide, _, rfl⟩

/-- TheUnitsShareNoState: an instruction of each unit. -/
theorem test_witness_units :
    (isCrc .frPop = false ∧ ∃ t, exec .frPop finished = .next t) ∧
    (isCrc (.crcPush 0#32) = true ∧ ∃ t, exec (.crcPush 0#32) finished = .next t) :=
  ⟨⟨rfl, _, rfl⟩, ⟨rfl, _, rfl⟩⟩

/-- OutputQueueIsFirstInFirstOut: the three cases, the last with a row added. -/
theorem test_witness_queue :
    seen (fun t => t.fru.outq) (exec .frPop finished) = some [0x22#8, 0x33#8] ∧
    (isInput (.wrFrCfg 1#32) = false ∧
      seen (fun t => t.fru.outq) (exec (.wrFrCfg 1#32) finished) = some finished.fru.outq) ∧
    (isInput (.slNone [7#8, 8#8, 9#8]) = true ∧
      seen (fun t => (t.fru.outq, t.fru.rowsOut)) (exec (.slNone [7#8, 8#8, 9#8]) secondRow) =
        some ([7#8, 8#8, 9#8], 2#32)) := by decide

/-- OnlyInputMovesThePosition. -/
theorem test_witness_position :
    isInput .frEos = false ∧ Instr.frEos ≠ .frStart ∧ Instr.frEos ≠ .frReset ∧
    ∃ t, exec .frEos secondRow = .next t := ⟨rfl, by decide, by decide, _, rfl⟩

/-- PlainReadsChangeNoState: FR.POP is no plain read. -/
theorem test_witness_plain_reads :
    isPlainRead .rdFrStatus = true ∧ isPlainRead (.rdNone 0#6) = true ∧ isPlainRead .frPop = false := by
  decide

/-- ParametersNeverChange: the reset command; the words are those of `test_witness_read_words`. -/
theorem test_witness_parameters :
    ∃ t, step { failed with input := [.code (encode .frReset)] } = .next t := ⟨_, rfl⟩

/-- ReservedCrcCommandSetsCmderr: INIT clears the flag in a step. -/
theorem test_witness_crc_cmderr :
    let s : State :=
      { finished with crc := ⟨0#32, 0#32, true⟩, input := [.code (.word 0x5000000001#39)] }
    s.crc.cmderr = true ∧ seen (fun t => t.crc.cmderr) (step s) = some false := by decide

/-- OnlyStartEntersRun: START from IDLE enters RUN. -/
theorem test_witness_enters_run :
    let s : State := { block with fru := { block.fru with width := 1#32, height := 1#32 } }
    s.fru.state ≠ .run ∧ seen (fun t => t.fru.state) (exec .frStart s) = some .run := by decide

/-- StickyFlagsStay and ReservedCrcCommandSetsCmderr: the flags set, and an instruction that completes. -/
theorem test_witness_flags :
    let s : State :=
      { finished with
        fru := { finished.fru with skipped := true, trail := true, cmderr := true }
        crc := { finished.crc with cmderr := true } }
    s.fru.skipped = true ∧ s.fru.trail = true ∧ s.fru.cmderr = true ∧ s.crc.cmderr = true ∧
    seen (fun t => (t.fru.skipped, t.fru.trail, t.fru.cmderr, t.crc.cmderr)) (exec .frPop s) =
      some (true, true, true, true) := by decide

/-- EachFaultHasItsOneSource: each of the four faults is reached from a state that is not FAULT. -/
theorem test_witness_faults :
    (secondRow.fru.state ≠ .fault ∧
      seen (fun t => t.fru.cause) (exec .frEos secondRow) = some .truncatedData) ∧
    seen (fun t => t.fru.cause) (exec .frStart { block with fru := { block.fru with width := 5#32 } }) =
      some .configError ∧
    seen (fun t => t.fru.cause) (exec (.slInvalid05 [1#8, 2#8, 3#8]) secondRow) =
      some .unsupportedFilterTag ∧
    seen (fun t => t.fru.cause) (exec (.frPush 0#32) { secondRow with outcap := 2 }) =
      some .inputOverrun := by decide

/-- UnspecifiedBytesAreNeverSeen: two states with other unspecified bytes, in IDLE and in a record. -/
theorem test_witness_unwritten :
    SameButUnwritten block
      { block with fru := { block.fru with cur := List.replicate 12 1#8, prior := List.replicate 12 2#8 } } ∧
    SameButUnwritten { secondRow with fru := { secondRow.fru with fill := 3, ft := 1#8 } }
      { secondRow with
        fru := { secondRow.fru with
          fill := 3, ft := 1#8, cur := [0x10#8, 0x20#8, 0x99#8] ++ List.replicate 9 0x77#8 } } := by
  constructor <;> constructor <;> decide

end Sys2Proof.Tests
end

section
/-! SUPPORT. What a completed instruction can do to the state, on top of Laws/Exec: the cases of the operations
that branch on STATE or on OUTQ, and the fields no instruction changes. -/

namespace Sys2Proof.Machine

/-! ### The operations that branch -/

/-- FR.EOS touches the FRU alone (42_host_transactions.md R104). -/
theorem exec_frEos (s : State) :
    exec .frEos s = .next { s with
      fru := if s.fru.state = .run then raiseFault .truncatedData s.fru else s.fru } := by
  show execFrEos s = _
  unfold execFrEos
  split <;> rfl

/-- A configuration write touches the FRU alone (42_host_transactions.md R107). -/
theorem configWrite_eq (g : Fru → Fru) (s : State) :
    configWrite g s = .next { s with fru := if s.fru.state = .run then s.fru else g s.fru } := by
  unfold configWrite
  split <;> rfl

theorem exec_wrFrCfg (data : Word) (s : State) :
    exec (.wrFrCfg data) s = .next { s with
      fru := if s.fru.state = .run then s.fru else { s.fru with oninv := data.getLsbD 0 } } :=
  configWrite_eq (fun f => { f with oninv := data.getLsbD 0 }) s

theorem exec_wrFrWidth (data : Word) (s : State) :
    exec (.wrFrWidth data) s = .next { s with
      fru := if s.fru.state = .run then s.fru else { s.fru with width := data } } :=
  configWrite_eq (fun f => { f with width := data }) s

theorem exec_wrFrHeight (data : Word) (s : State) :
    exec (.wrFrHeight data) s = .next { s with
      fru := if s.fru.state = .run then s.fru else { s.fru with height := data } } :=
  configWrite_eq (fun f => { f with height := data }) s

/-- FR.POP takes the head of OUTQ, if there is one, and answers it (42_host_transactions.md R109). -/
theorem exec_frPop (s : State) :
    exec .frPop s = .next { s with
      fru := { s.fru with outq := s.fru.outq.tail }
      resp := some (s.fru.outq.head?.elim 0#32 doutValid) } := by
  show execFrPop s = _
  unfold execFrPop
  split
  next hq =>
    have ht : s.fru.outq.tail = s.fru.outq := by simp [hq]
    have hv : s.fru.outq.head?.elim 0#32 doutValid = 0#32 := by simp [hq]
    rw [ht, hv]
    rfl
  next b q hq => simp [hq, answer]

/-- An instruction of the input stream pushes some bytes and changes the FRU alone. -/
theorem exec_input_next {i : Instr} (hi : isInput i = true) {s t : State} (h : exec i s = .next t) :
    ∃ ds g, pushBytes s.outcap ds s.fru = .ok g ∧ t = { s with fru := g } := by
  obtain ⟨ds, hds⟩ := exec_input hi
  obtain ⟨g, hg, ht⟩ := withFru_next ((hds s).symm.trans h)
  exact ⟨ds, g, hg, ht⟩

/-- The ends of START's checks (42_host_transactions.md R103): the ConfigError fault, or a run whose image
ends at once when it declares no row. -/
theorem startRun_eq (maxw : Nat) (f : Fru) :
    startRun maxw f =
      if maxw < f.width.toNat then raiseFault .configError (clearRun maxw f)
      else endOfImage { clearRun maxw f with state := .run } := by
  by_cases hh : f.height = 0#32
  · simp [startRun, enterRun, endOfImage, hh]
  · simp [startRun, enterRun, endOfImage, hh, Ne.symm hh]

/-! ### The parameters (10_state.md R34) -/

/-- No instruction changes MAXW or OUTCAP. -/
theorem exec_parameters {i : Instr} {s t : State} (h : exec i s = .next t) :
    t.maxw = s.maxw ∧ t.outcap = s.outcap := by
  by_cases hi : isInput i = true
  · obtain ⟨ds, g, _, rfl⟩ := exec_input_next hi h
    exact ⟨rfl, rfl⟩
  cases i
  case frEos => rw [exec_frEos] at h; cases h; exact ⟨rfl, rfl⟩
  case wrFrCfg data => rw [exec_wrFrCfg] at h; cases h; exact ⟨rfl, rfl⟩
  case wrFrWidth data => rw [exec_wrFrWidth] at h; cases h; exact ⟨rfl, rfl⟩
  case wrFrHeight data => rw [exec_wrFrHeight] at h; cases h; exact ⟨rfl, rfl⟩
  case frPop => rw [exec_frPop] at h; cases h; exact ⟨rfl, rfl⟩
  all_goals first | (cases h; exact ⟨rfl, rfl⟩) | exact absurd rfl hi

/-- What a step can do: nothing without an input, a hardware reset, or the instruction of the next code
(42_host_transactions.md R100). -/
theorem step_next {s t : State} (h : step s = .next t) :
    t = s ∨ (∃ rest, t = hardwareReset rest s) ∨
    (∃ i rest, exec i (beginTransaction rest s) = .next t) := by
  unfold step at h
  split at h
  next => exact .inl (Host.Outcome.next.inj h).symm
  next rest _ => exact .inr (.inl ⟨rest, (Host.Outcome.next.inj h).symm⟩)
  next c rest _ =>
    split at h
    next i _ => exact .inr (.inr ⟨i, rest, h⟩)
    next => cases h

end Sys2Proof.Machine
end

section
/-! The invariants of 10_state.md R39 are kept by every step (O10, O9). -/

namespace Sys2Proof.Machine

/-! ### The invariants, from the kinds of state they are shown for -/

/-- The parts of `Inv` that hold in every STATE: legal parameters and the sizes of the buffers. -/
structure Sized (s : State) (f : Fru) : Prop where
  legal : Config.Legal s.maxw s.outcap
  cur : f.cur.length = 3 * s.maxw
  prior : f.prior.length = 3 * s.maxw
  outq : f.outq.length ≤ s.outcap

/-- What holds in RUN wherever in a record the FRU stands, also between the last byte of a record and the
completion check, and also after the last row. -/
structure InRun (s : State) (f : Fru) : Prop extends Sized s f where
  run : f.state = .run
  width : f.width.toNat ≤ s.maxw
  h0 : f.h0 = f.height
  cause : f.cause = .none
  trail : f.trail = false
  rowLe : f.row.toNat ≤ f.height.toNat
  rowsOutLe : f.rowsOut.toNat ≤ f.row.toNat
  noSkipRows : f.skipped = false → f.rowsOut = f.row
  diagClear : f.skipped = false → f.frow = 0#32 ∧ f.ftag = 0#8

/-- A record in progress: there is a row left for it and room for that row. -/
structure InRecord (s : State) (f : Fru) : Prop extends InRun s f where
  rowLt : f.row.toNat < f.height.toNat
  fill : f.fill ≤ 1 + 3 * f.width.toNat
  room : f.outq.length + 3 * f.width.toNat ≤ s.outcap

theorem Inv.sized {s : State} (h : Inv s) : Sized s s.fru :=
  ⟨h.legal, h.curLength, h.priorLength, h.outqLe⟩

theorem Inv.trail_of_ne_done {s : State} (h : Inv s) (hs : s.fru.state ≠ .done) :
    s.fru.trail = false := by
  by_contra ht
  exact hs (h.trailDone (by simpa using ht))

theorem Inv.inRun {s : State} (h : Inv s) (hrun : s.fru.state = .run) : InRun s s.fru where
  toSized := h.sized
  run := hrun
  width := h.runWidth hrun
  h0 := h.runHeight hrun
  cause := by
    by_contra hc
    simpa [hrun] using h.causeIffFault.mp hc
  trail := h.trail_of_ne_done (by simp [hrun])
  rowLe := (h.runRow hrun).le
  rowsOutLe := h.rowsOutLe (.inl hrun)
  noSkipRows := h.noSkipRows (.inl hrun)
  diagClear := h.diagClear (by simp [hrun])

/-- The state after a reset of the FRU (10_state.md R39). -/
theorem inv_of_reset {s : State} {draw : Nat} (hl : Config.Legal s.maxw s.outcap)
    (hf : s.fru = Fru.reset draw s.maxw) : Inv s := by
  constructor <;> simp [hf, hl]

/-- The state after a fault entry (60_exceptions.md R125), wherever it comes from. -/
theorem Sized.inv_of_raiseFault {s : State} {f : Fru} {c : Cause} (h : Sized s f)
    (ht : f.trail = false) (hc : c ≠ .none) : Inv { s with fru := raiseFault c f } := by
  constructor
  case faultTag => exact fun _ => rfl
  all_goals simp [h.legal, h.cur, h.prior, h.outq, ht, hc]

/-- A state in RUN with a row left, whose record in progress is not complete. -/
theorem InRun.inv_of_incomplete {s : State} {f : Fru} (h : InRun s f)
    (hrow : f.row.toNat < f.height.toNat) (hfill : f.fill ≤ 3 * f.width.toNat)
    (hroom : 0 < f.fill → f.outq.length + 3 * f.width.toNat ≤ s.outcap) :
    Inv { s with fru := f } := by
  constructor
  case noSkipRows => exact fun _ => h.noSkipRows
  case diagClear => exact fun _ => h.diagClear
  all_goals
    simp [h.legal, h.cur, h.prior, h.outq, h.run, h.width, h.h0, h.cause, h.trail, h.rowLe,
      h.rowsOutLe, hrow, hfill]
  exact hroom

/-- A state at a record boundary of a run after the check for the end of the image (R77, R82). -/
theorem InRun.inv_endOfImage {s : State} {f : Fru} (h : InRun s f) (hfill : f.fill = 0) :
    Inv { s with fru := endOfImage f } := by
  rw [endOfImage_eq]
  by_cases hend : f.row = f.height
  · constructor
    case noSkipRows => exact fun _ => h.noSkipRows
    case diagClear => exact fun _ => h.diagClear
    all_goals
      simp [h.legal, h.cur, h.prior, h.outq, h.h0, h.cause, hfill, hend]
    exact hend ▸ h.rowsOutLe
  · have hrow : f.row.toNat < f.height.toNat :=
      lt_of_le_of_ne h.rowLe fun he => hend (BitVec.eq_of_toNat_eq he)
    simpa [hend] using h.inv_of_incomplete hrow (by omega) (by omega)

/-- START (42_host_transactions.md R103): whatever the run before it, with its parameters and the size of
CUR kept. -/
theorem Inv.of_startRun {s : State} (h : Inv s) : Inv { s with fru := startRun s.maxw s.fru } := by
  have hsized : Sized s (clearRun s.maxw s.fru) := ⟨h.legal, by simp [h.curLength], by simp, by simp⟩
  rw [startRun_eq]
  split
  next => exact hsized.inv_of_raiseFault rfl (by decide)
  next hw =>
    refine InRun.inv_endOfImage ?_ rfl
    exact { hsized with
      run := rfl, width := not_lt.mp hw, h0 := rfl, cause := rfl, trail := rfl
      rowLe := Nat.zero_le _, rowsOutLe := le_rfl, noSkipRows := fun _ => rfl
      diagClear := fun _ => ⟨rfl, rfl⟩ }

/-! ### The push of a byte -/

/-- A counter below another one does not wrap when it goes on. -/
theorem toNat_succ_of_lt {a b : Word} (h : a.toNat < b.toNat) : (a + 1#32).toNat = a.toNat + 1 := by
  have := b.isLt
  rw [BitVec.toNat_add]
  simp
  omega

/-- There is a row left to count: ROW is below FR_HEIGHT. -/
theorem InRecord.row_succ {s : State} {f : Fru} (h : InRecord s f) :
    (f.row + 1#32).toNat = f.row.toNat + 1 :=
  toNat_succ_of_lt h.rowLt

theorem InRecord.rowsOut_succ {s : State} {f : Fru} (h : InRecord s f) :
    (f.rowsOut + 1#32).toNat = f.rowsOut.toNat + 1 :=
  toNat_succ_of_lt (h.rowsOutLe.trans_lt h.rowLt)

/-- The commit of a complete record (40_filter_reconstruction.md R77). -/
theorem InRecord.inRun_of_commitRow {s : State} {f g : Fru} (h : InRecord s f)
    (hc : commitRow f = .ok g) : InRun s g ∧ g.fill = 0 := by
  obtain ⟨hcur, hprior, rfl⟩ := commitRow_ok hc
  have hroom := h.room
  have hrow := h.row_succ
  have hout := h.rowsOut_succ
  refine ⟨{
    legal := h.legal, cur := h.cur, run := h.run, width := h.width, h0 := h.h0, cause := h.cause
    trail := h.trail, diagClear := h.diagClear
    prior := ?_, outq := ?_, rowLe := ?_, rowsOutLe := ?_, noSkipRows := ?_ }, rfl⟩
  · simp only [List.length_append, List.length_take, List.length_drop, ← h.prior]
    omega
  · simp only [List.length_append, List.length_take, rowBytes]
    omega
  · exact hrow ▸ h.rowLt
  · have := h.rowsOutLe
    dsimp only
    omega
  · exact fun hs => by rw [h.noSkipRows hs]

/-- The skip of a complete record (40_filter_reconstruction.md R81). -/
theorem InRecord.inRun_skipRow {s : State} {f : Fru} (h : InRecord s f) : InRun s (skipRow f) where
  toSized := ⟨h.legal, h.cur, h.prior, h.outq⟩
  run := h.run
  width := h.width
  h0 := h.h0
  cause := h.cause
  trail := h.trail
  rowLe := h.row_succ ▸ h.rowLt
  rowsOutLe := h.row_succ ▸ Nat.le_succ_of_le h.rowsOutLe
  noSkipRows := nofun
  diagClear := nofun

/-- The completion check that ends a push (40_filter_reconstruction.md R77). -/
theorem InRecord.inv_of_completionCheck {s : State} {f g : Fru} (h : InRecord s f)
    (hc : completionCheck f = .ok g) : Inv { s with fru := g } := by
  rcases completionCheck_ok hc with ⟨hne, rfl⟩ | ⟨_, _, c, hcommit, rfl⟩ | ⟨_, _, _, rfl⟩ | ⟨_, _, _, rfl⟩
  · have hfill : g.fill ≤ 3 * g.width.toNat := by
      have := h.fill
      unfold rowBytes at hne
      omega
    exact h.inv_of_incomplete h.rowLt hfill fun _ => h.room
  · obtain ⟨hrun, hfill⟩ := h.inRun_of_commitRow hcommit
    exact hrun.inv_endOfImage hfill
  · exact h.inRun_skipRow.inv_endOfImage rfl
  · exact h.inv_of_raiseFault h.trail (by decide)

/-- The tag step, room found, opens a record (40_filter_reconstruction.md R78). -/
theorem Inv.inRecord_tagStep {s : State} (h : Inv s) (d : Byte) (hrun : s.fru.state = .run)
    (hroom : s.fru.outq.length + rowBytes s.fru ≤ s.outcap) : InRecord s (tagStep d s.fru) :=
  { h.inRun hrun with
    rowLt := h.runRow hrun
    fill := Nat.le_add_right 1 _
    room := hroom }

/-- A sample step goes on with the record in progress (40_filter_reconstruction.md R76). -/
theorem Inv.inRecord_sampleStep {s : State} {d : Byte} {m : Fru} (h : Inv s) (hrun : s.fru.state = .run)
    (hfill : s.fru.fill ≠ 0) (hm : sampleStep d s.fru = .ok m) : InRecord s m := by
  obtain ⟨hframe, hcur⟩ := sampleStep_frame hm
  rw [hframe]
  exact { h.inRun hrun with
    cur := hcur.trans h.curLength
    rowLt := h.runRow hrun
    fill := by have := h.runFill hrun; dsimp only; omega
    room := h.roomKept hrun (Nat.pos_of_ne_zero hfill) }

/-- The push of a byte, in every STATE (42_host_transactions.md R108). -/
theorem Inv.of_pushByte {s : State} {d : Byte} {g : Fru} (h : Inv s)
    (hg : pushByte s.outcap d s.fru = .ok g) : Inv { s with fru := g } := by
  rcases pushByte_ok hg with
    ⟨_, rfl⟩ | ⟨hdone, rfl⟩ | ⟨hrun, _, _, rfl⟩ | ⟨hrun, _, hroom, hc⟩ | ⟨hrun, hfill, m, hm, hc⟩
  · exact h
  · exact { h with trailDone := fun _ => hdone, idleReset := fun hi => by simp [hdone] at hi }
  · exact h.sized.inv_of_raiseFault (h.inRun hrun).trail (by decide)
  · exact (h.inRecord_tagStep d hrun hroom).inv_of_completionCheck hc
  · exact (h.inRecord_sampleStep hrun hfill hm).inv_of_completionCheck hc

/-! ### Every instruction and every step -/

/-- What the instructions that neither push, fault, start nor reset do: outside RUN they may change the
configuration, and they may set CMDERR and shorten OUTQ. -/
theorem Inv.of_samePosition {s t : State} (h : Inv s) {o e : Bool} {w hh : Word} {q : List Byte}
    (ht : t.fru = { s.fru with oninv := o, width := w, height := hh, cmderr := e, outq := q })
    (hm : t.maxw = s.maxw) (ho : t.outcap = s.outcap) (hq : q.length ≤ s.fru.outq.length)
    (hrun : s.fru.state = .run → w = s.fru.width ∧ hh = s.fru.height) : Inv t := by
  have hout := h.outqLe
  obtain ⟨_, _, _, runRow, runWidth, runFill, runHeight, _, _, _, _, _, _, _, roomKept, idleReset⟩ := h
  constructor <;> simp only [ht, hm, ho]
  case runRow => intro hr; rw [(hrun hr).2]; exact runRow hr
  case runWidth => intro hr; rw [(hrun hr).1]; exact runWidth hr
  case runFill => intro hr; rw [(hrun hr).1]; exact runFill hr
  case runHeight => intro hr; rw [(hrun hr).2]; exact runHeight hr
  case roomKept =>
    intro hr hf
    have := roomKept hr hf
    rw [(hrun hr).1]
    omega
  case outqLe => omega
  case idleReset =>
    intro hi
    obtain ⟨hrow, hout, hfill, hft, hempty, hrest⟩ := idleReset hi
    have hq0 : q = [] := by simpa [hempty] using hq
    exact ⟨hrow, hout, hfill, hft, hq0, hrest⟩
  all_goals assumption

/-- Every instruction keeps the invariants. -/
theorem Inv.of_exec {i : Instr} {s t : State} (h : Inv s) (he : exec i s = .next t) : Inv t := by
  by_cases hi : isInput i = true
  · obtain ⟨ds, g, hg, rfl⟩ := exec_input_next hi he
    exact pushBytes_induct (fun f => Inv { s with fru := f }) (fun d f g hf hd => hf.of_pushByte hd) h hg
  by_cases hs : i = .frStart
  · subst hs; cases he; exact h.of_startRun
  by_cases hr : i = .frReset
  · subst hr; cases he; exact inv_of_reset h.legal rfl
  obtain ⟨hm, ho⟩ := exec_parameters he
  rcases exec_fru_cases he (by simpa using hi) hs hr with
    ht | ⟨rfl, hrun, _⟩ | ⟨_, _, ht⟩ | ⟨hrun, o, w, hh, ht⟩ | ⟨_, b, hb, ht⟩
  · exact h.of_samePosition ht hm ho le_rfl fun _ => ⟨rfl, rfl⟩
  · cases he
    simp only [hrun, if_true]
    exact h.sized.inv_of_raiseFault (h.inRun hrun).trail (by decide)
  · exact h.of_samePosition ht hm ho le_rfl fun _ => ⟨rfl, rfl⟩
  · exact h.of_samePosition ht hm ho le_rfl fun hr => absurd hr hrun
  · exact h.of_samePosition ht hm ho (by simp [hb]) fun _ => ⟨rfl, rfl⟩

/-- Taking the next input off the host's list touches nothing the invariants speak of. -/
theorem Inv.of_beginTransaction {s : State} (h : Inv s) (rest : List HostInput) :
    Inv (beginTransaction rest s) :=
  { h with }

/-- Settles O10: a step does nothing, resets the hardware or executes an instruction, and each of these
keeps the invariants. -/
theorem everyStepKeepsTheInvariant : Obligations.EveryStepKeepsTheInvariant := by
  intro s t h hstep
  rcases step_next hstep with rfl | ⟨rest, rfl⟩ | ⟨i, rest, he⟩
  · exact h
  · exact inv_of_reset h.legal rfl
  · exact (h.of_beginTransaction rest).of_exec he

/-- The parameters that `State.reset` holds are legal (00_scope.md R7). -/
theorem config_legal : Config.Legal Config.maxw Config.outcap := by
  have hm := Nat.mod_lt Config.maxwChoice (show 0 < 1431655765 by decide)
  have hmaxw : Config.maxw = Config.maxwChoice % 1431655765 + 1 := rfl
  have ho := Nat.mod_lt Config.outcapChoice (show 0 < 2 ^ 32 - 3 * Config.maxw by omega)
  have houtcap : Config.outcap = 3 * Config.maxw + Config.outcapChoice % (2 ^ 32 - 3 * Config.maxw) := rfl
  unfold Config.Legal
  omega

/-- Settles O9: the state after hardware reset is that of any FRU reset, under the legal parameters. -/
theorem invariantHoldsAtReset : Obligations.InvariantHoldsAtReset :=
  inv_of_reset config_legal rfl

/-- Settles O7: the values are those of `Fru.reset` and `Crc.reset`, the sizes and the legal parameters are
those of the invariants. -/
theorem resetLeavesTheStatedValues : Obligations.ResetLeavesTheStatedValues := by
  have h : Inv State.reset := inv_of_reset config_legal rfl
  exact ⟨rfl, rfl, rfl, rfl, rfl, rfl, rfl, rfl, rfl, rfl, rfl, rfl, rfl, rfl, rfl, rfl, rfl, rfl,
    h.curLength, h.priorLength, h.legal⟩

end Sys2Proof.Machine
end

section
/-! Frame statements over all instructions: the position (O52), RUN (O46), the sticky flags (O49), OUTQ (O51),
the parameters (O45). -/

namespace Sys2Proof.Machine

/-! ### The position and the line buffers -/

/-- Settles O52: none of the things such an instruction can do to the FRU is to the position, FT or the line
buffers. -/
theorem onlyInputMovesThePosition : Obligations.OnlyInputMovesThePosition := by
  intro i s t h hi hs hr
  rcases exec_fru_cases h hi hs hr with
    ht | ⟨_, _, ht⟩ | ⟨_, _, ht⟩ | ⟨_, o, w, hh, ht⟩ | ⟨_, b, _, ht⟩ <;>
    rw [ht] <;> exact ⟨rfl, rfl, rfl, rfl, rfl⟩

/-! ### RUN -/

/-- A push outside RUN does not enter RUN. -/
theorem pushByte_state_ne_run {outcap : Nat} {d : Byte} {f g : Fru} (hf : f.state ≠ .run)
    (h : pushByte outcap d f = .ok g) : g.state ≠ .run := by
  rcases pushByte_ok h with ⟨_, rfl⟩ | ⟨hdone, rfl⟩ | ⟨hrun, _⟩ | ⟨hrun, _⟩ | ⟨hrun, _⟩
  · exact hf
  · exact hf
  all_goals exact absurd hrun hf

/-- Settles O46: outside RUN, no push, no fault and no write of a register enters it, and RESET enters
IDLE. -/
theorem onlyStartEntersRun : Obligations.OnlyStartEntersRun := by
  intro i s t h hs ht
  by_contra hstart
  by_cases hi : isInput i = true
  · obtain ⟨ds, g, hg, rfl⟩ := exec_input_next hi h
    exact pushBytes_induct (fun f => f.state ≠ .run) (fun _ _ _ => pushByte_state_ne_run) hs hg ht
  by_cases hr : i = .frReset
  · subst hr
    cases h
    cases ht
  rcases exec_fru_cases h (by simpa using hi) hstart hr with
    he | ⟨_, hrun, _⟩ | ⟨_, _, he⟩ | ⟨_, _, _, _, he⟩ | ⟨_, _, _, he⟩
  case inr.inl => exact hs hrun
  all_goals
    rw [he] at ht
    exact hs ht

/-! ### The sticky flags -/

/-- Each of the three flags (10_state.md R30) that is set in `f` is set in `g`. -/
structure FlagsStay (f g : Fru) : Prop where
  skipped : f.skipped = true → g.skipped = true
  trail : f.trail = true → g.trail = true
  cmderr : f.cmderr = true → g.cmderr = true

theorem FlagsStay.refl (f : Fru) : FlagsStay f f := ⟨id, id, id⟩

theorem FlagsStay.trans {f g k : Fru} (h : FlagsStay f g) (h' : FlagsStay g k) : FlagsStay f k :=
  ⟨h'.skipped ∘ h.skipped, h'.trail ∘ h.trail, h'.cmderr ∘ h.cmderr⟩

theorem flagsStay_endOfImage (f : Fru) : FlagsStay f (endOfImage f) := by
  rw [endOfImage_eq]
  exact ⟨id, id, id⟩

theorem flagsStay_commitRow {f g : Fru} (h : commitRow f = .ok g) : FlagsStay f g := by
  obtain ⟨_, _, rfl⟩ := commitRow_ok h
  exact ⟨id, id, id⟩

theorem flagsStay_completionCheck {f g : Fru} (h : completionCheck f = .ok g) : FlagsStay f g := by
  rcases completionCheck_ok h with ⟨_, rfl⟩ | ⟨_, _, c, hc, rfl⟩ | ⟨_, _, _, rfl⟩ | ⟨_, _, _, rfl⟩
  · exact .refl g
  · exact (flagsStay_commitRow hc).trans (flagsStay_endOfImage c)
  · exact FlagsStay.trans (g := skipRow f) ⟨fun _ => rfl, id, id⟩ (flagsStay_endOfImage _)
  · exact ⟨id, id, id⟩

theorem flagsStay_pushByte {outcap : Nat} {d : Byte} {f g : Fru} (h : pushByte outcap d f = .ok g) :
    FlagsStay f g := by
  rcases pushByte_ok h with ⟨_, rfl⟩ | ⟨_, rfl⟩ | ⟨_, _, _, rfl⟩ | ⟨_, _, _, hc⟩ | ⟨_, _, m, hm, hc⟩
  · exact .refl g
  · exact ⟨id, fun _ => rfl, id⟩
  · exact ⟨id, id, id⟩
  · exact FlagsStay.trans (g := tagStep d f) ⟨id, id, id⟩ (flagsStay_completionCheck hc)
  · obtain ⟨hframe, _⟩ := sampleStep_frame hm
    have hm' : FlagsStay f m := by rw [hframe]; exact ⟨id, id, id⟩
    exact hm'.trans (flagsStay_completionCheck hc)

/-- Settles O49: pushes set flags only, and the other instructions leave them or set CMDERR. -/
theorem stickyFlagsStay : Obligations.StickyFlagsStay := by
  intro i s t h hs hr
  suffices hflags : FlagsStay s.fru t.fru from ⟨hflags.skipped, hflags.trail, hflags.cmderr⟩
  by_cases hi : isInput i = true
  · obtain ⟨ds, g, hg, rfl⟩ := exec_input_next hi h
    exact pushBytes_induct (FlagsStay s.fru) (fun _ _ _ hf hd => hf.trans (flagsStay_pushByte hd))
      (.refl _) hg
  rcases exec_fru_cases h (by simpa using hi) hs hr with
    he | ⟨_, _, he⟩ | ⟨_, _, he⟩ | ⟨_, _, _, _, he⟩ | ⟨_, _, _, he⟩
  case inr.inr.inl => rw [he]; exact ⟨id, id, fun _ => rfl⟩
  all_goals
    rw [he]
    exact ⟨id, id, id⟩

/-! ### The output queue -/

/-- From `f` to `g` some whole rows are appended to OUTQ and counted by ROWS_OUT (10_state.md R24, R25). -/
def RowsAppended (f g : Fru) : Prop :=
  g.width = f.width ∧ ∃ (k : Nat) (out : List Byte), g.outq = f.outq ++ out ∧
    out.length = k * rowBytes f ∧ g.rowsOut = f.rowsOut + BitVec.ofNat 32 k

/-- Where neither OUTQ nor ROWS_OUT changes, no row is appended. -/
theorem RowsAppended.of_eq {f g : Fru} (hw : g.width = f.width) (hq : g.outq = f.outq)
    (hr : g.rowsOut = f.rowsOut) : RowsAppended f g :=
  ⟨hw, 0, [], by simp [hq], by simp, by simp [hr]⟩

theorem RowsAppended.trans {f g k : Fru} (h : RowsAppended f g) (h' : RowsAppended g k) :
    RowsAppended f k := by
  obtain ⟨hw, m, out, hq, hlen, hr⟩ := h
  obtain ⟨hw', m', out', hq', hlen', hr'⟩ := h'
  refine ⟨hw'.trans hw, m + m', out ++ out', ?_, ?_, ?_⟩
  · rw [hq', hq, List.append_assoc]
  · rw [List.length_append, hlen, hlen', Nat.add_mul, rowBytes, rowBytes, hw]
  · rw [hr', hr, BitVec.ofNat_add, BitVec.add_assoc]

theorem rowsAppended_endOfImage (f : Fru) : RowsAppended f (endOfImage f) := by
  rw [endOfImage_eq]
  exact .of_eq rfl rfl rfl

/-- A commit appends one row (40_filter_reconstruction.md R77). -/
theorem rowsAppended_commitRow {f g : Fru} (h : commitRow f = .ok g) : RowsAppended f g := by
  obtain ⟨hcur, _, rfl⟩ := commitRow_ok h
  exact ⟨rfl, 1, f.cur.take (rowBytes f), rfl, by simpa using hcur, rfl⟩

theorem rowsAppended_completionCheck {f g : Fru} (h : completionCheck f = .ok g) :
    RowsAppended f g := by
  rcases completionCheck_ok h with ⟨_, rfl⟩ | ⟨_, _, c, hc, rfl⟩ | ⟨_, _, _, rfl⟩ | ⟨_, _, _, rfl⟩
  · exact .of_eq rfl rfl rfl
  · exact (rowsAppended_commitRow hc).trans (rowsAppended_endOfImage c)
  · exact RowsAppended.trans (g := skipRow f) (.of_eq rfl rfl rfl) (rowsAppended_endOfImage _)
  · exact .of_eq rfl rfl rfl

theorem rowsAppended_pushByte {outcap : Nat} {d : Byte} {f g : Fru} (h : pushByte outcap d f = .ok g) :
    RowsAppended f g := by
  rcases pushByte_ok h with ⟨_, rfl⟩ | ⟨_, rfl⟩ | ⟨_, _, _, rfl⟩ | ⟨_, _, _, hc⟩ | ⟨_, _, m, hm, hc⟩
  · exact .of_eq rfl rfl rfl
  · exact .of_eq rfl rfl rfl
  · exact .of_eq rfl rfl rfl
  · exact RowsAppended.trans (g := tagStep d f) (.of_eq rfl rfl rfl) (rowsAppended_completionCheck hc)
  · obtain ⟨hframe, _⟩ := sampleStep_frame hm
    have hm' : RowsAppended f m := by rw [hframe]; exact .of_eq rfl rfl rfl
    exact hm'.trans (rowsAppended_completionCheck hc)

/-- Settles O51: the pushes of an input instruction append whole rows one after the other, FR.POP takes the
head, and nothing else touches OUTQ or ROWS_OUT. -/
theorem outputQueueIsFirstInFirstOut : Obligations.OutputQueueIsFirstInFirstOut := by
  intro i s t h hs hr
  by_cases hi : isInput i = true
  · obtain ⟨ds, g, hg, rfl⟩ := exec_input_next hi h
    obtain ⟨_, hrows⟩ := pushBytes_induct (RowsAppended s.fru)
      (fun _ _ _ hf hd => hf.trans (rowsAppended_pushByte hd)) (.of_eq rfl rfl rfl) hg
    exact .inr (.inr ⟨hi, hrows⟩)
  by_cases hp : i = .frPop
  · subst hp
    rw [exec_frPop] at h
    cases h
    exact .inl ⟨rfl, rfl, rfl⟩
  have hi : isInput i = false := by simpa using hi
  refine .inr (.inl ⟨hp, hi, ?_⟩)
  rcases exec_fru_cases h hi hs hr with
    he | ⟨_, _, he⟩ | ⟨_, _, he⟩ | ⟨_, _, _, _, he⟩ | ⟨hpop, _⟩
  case inr.inr.inr.inr => exact absurd hpop hp
  all_goals
    rw [he]
    exact ⟨rfl, rfl⟩

/-! ### The parameters -/

/-- Settles O45: the reads answer the parameters, and neither an instruction nor a hardware reset changes
them. -/
theorem parametersNeverChange : Obligations.ParametersNeverChange := by
  refine ⟨fun s n hn => ⟨by decide, ?_⟩, fun s n hn => ⟨by decide, ?_⟩, fun s t h => ?_⟩
  · have hn : BitVec.ofNat 32 s.maxw = n := by simp [← hn]
    rw [← hn]
    rfl
  · have hn : BitVec.ofNat 32 s.outcap = n := by simp [← hn]
    rw [← hn]
    rfl
  · rcases step_next h with rfl | ⟨rest, rfl⟩ | ⟨i, rest, he⟩
    · exact ⟨rfl, rfl⟩
    · exact ⟨rfl, rfl⟩
    · exact exec_parameters (s := beginTransaction rest s) he

end Sys2Proof.Machine
end

section
/-! Two runs side by side: the units share no state (O44), and unspecified line-buffer bytes are never seen
(O54). Both say that executing an instruction commutes with a change of the part of the state that it does not
use. -/

namespace Sys2Proof.Machine

/-- The outcome with its next state changed by `g`; a stop stays as it is. -/
def mapNext (g : State → State) :
    Host.Outcome State Fault Refusal → Host.Outcome State Fault Refusal
  | .next s => .next (g s)
  | .fault e => .fault e
  | .refused e => .refused e

@[simp] theorem mapNext_next (g : State → State) (s : State) : mapNext g (.next s) = .next (g s) := rfl

/-! ### The two units -/

/-- An instruction of the FRU commutes with any change of the CRCU's state. -/
theorem exec_setCrc {i : Instr} (hi : isCrc i = false) (c : Crc) (s : State) :
    exec i { s with crc := c } = mapNext (fun t => { t with crc := c }) (exec i s) := by
  by_cases hin : isInput i = true
  · obtain ⟨ds, hds⟩ := exec_input hin
    rw [hds, hds]
    cases pushBytes s.outcap ds s.fru <;> rfl
  cases i
  case frEos => rw [exec_frEos, exec_frEos]; rfl
  case wrFrCfg data => rw [exec_wrFrCfg, exec_wrFrCfg]; rfl
  case wrFrWidth data => rw [exec_wrFrWidth, exec_wrFrWidth]; rfl
  case wrFrHeight data => rw [exec_wrFrHeight, exec_wrFrHeight]; rfl
  case frPop => rw [exec_frPop, exec_frPop]; rfl
  all_goals first | rfl | exact absurd rfl hin | cases hi

/-- An instruction of the CRCU commutes with any change of the FRU's state. -/
theorem exec_setFru {i : Instr} (hi : isCrc i = true) (f : Fru) (s : State) :
    exec i { s with fru := f } = mapNext (fun t => { t with fru := f }) (exec i s) := by
  cases i
  all_goals first | rfl | cases hi

/-- Settles O44: an instruction that commutes with every change of the other unit's state does not read it,
and, the change taken to be none, does not write it. -/
theorem theUnitsShareNoState : Obligations.TheUnitsShareNoState := by
  intro i s t h
  refine ⟨fun hi c => ?_, fun hi f => ?_⟩
  · have hset (c : Crc) : exec i { s with crc := c } = .next { t with crc := c } := by
      rw [exec_setCrc hi, h, mapNext_next]
    have hsame : t = { t with crc := s.crc } := Host.Outcome.next.inj (h.symm.trans (hset s.crc))
    exact ⟨by rw [hsame], hset c⟩
  · have hset (f : Fru) : exec i { s with fru := f } = .next { t with fru := f } := by
      rw [exec_setFru hi, h, mapNext_next]
    have hsame : t = { t with fru := s.fru } := Host.Outcome.next.inj (h.symm.trans (hset s.fru))
    exact ⟨by rw [hsame], hset f⟩

/-! ### Other line-buffer bytes

`SameButUnwritten` relates two states. Here the second of them is written as a change of the first: other line
buffers, which `Unseen` says to differ from the first ones only where 10_state.md R39 leaves them open. -/

/-- The FRU with other line buffers. -/
def setBuffers (c p : List Byte) (f : Fru) : Fru := { f with cur := c, prior := p }

/-- The line buffers `c` and `p` may stand in for those of `f`: they have the same sizes and, in RUN, the same
PRIOR and the same bytes of the record in progress in CUR. -/
structure Unseen (f : Fru) (c p : List Byte) : Prop where
  curLength : c.length = f.cur.length
  priorLength : p.length = f.prior.length
  prior : f.state = .run → p = f.prior
  written : f.state = .run → ∀ x < f.fill - 1, f.ft.toNat ≤ 4 → c.getD x 0#8 = f.cur.getD x 0#8

/-- The state with other line buffers and another reset counter. -/
def setUnseen (c p : List Byte) (d : Nat) (s : State) : State :=
  { s with fru := setBuffers c p s.fru, draw := d }

/-- The pairs of states the statement speaks of, as changes of the first state. -/
theorem sameButUnwritten_iff {s t : State} :
    SameButUnwritten s t ↔ ∃ c p d, Unseen s.fru c p ∧ t = setUnseen c p d s := by
  constructor
  · intro h
    have hfru : t.fru = setBuffers t.fru.cur t.fru.prior s.fru := by
      rw [← h.fru]
      rfl
    refine ⟨t.fru.cur, t.fru.prior, t.draw, ⟨h.curLength, h.priorLength, h.prior, h.written⟩, ?_⟩
    unfold setUnseen
    rw [← hfru, ← h.crc, ← h.maxw, ← h.outcap, ← h.resp, ← h.input]
  · rintro ⟨c, p, d, h, rfl⟩
    exact ⟨rfl, rfl, rfl, rfl, rfl, rfl, h.curLength, h.priorLength, h.prior, h.written⟩

/-- Buffers that may stand in for those of `f` may do so in any state with the same buffers that, if in RUN,
continues the record in progress or is at most at its tag. -/
theorem Unseen.congr {f g : Fru} {c p : List Byte} (h : Unseen f c p) (hcur : g.cur = f.cur)
    (hprior : g.prior = f.prior) (hrun : g.state = .run → f.state = .run)
    (hrecord : g.fill ≤ 1 ∨ g.fill = f.fill ∧ g.ft = f.ft) : Unseen g c p where
  curLength := hcur ▸ h.curLength
  priorLength := hprior ▸ h.priorLength
  prior hr := hprior ▸ h.prior (hrun hr)
  written hr x hx ht := by
    rcases hrecord with hfill | ⟨hfill, hft⟩
    · omega
    · rw [hcur]
      exact h.written (hrun hr) x (hfill ▸ hx) (hft ▸ ht)

/-- Two results of a push that only the unspecified bytes may tell apart. -/
def SameResult : Except Fault Fru → Except Fault Fru → Prop
  | .ok f, r => ∃ c p, Unseen f c p ∧ r = .ok (setBuffers c p f)
  | .error e, r => r = .error e

theorem SameResult.ok {f : Fru} {c p : List Byte} (h : Unseen f c p) :
    SameResult (.ok f) (.ok (setBuffers c p f)) := ⟨c, p, h, rfl⟩

theorem SameResult.bind {r r' : Except Fault Fru} {k : Fru → Except Fault Fru} (h : SameResult r r')
    (hk : ∀ f c p, r = .ok f → Unseen f c p → SameResult (k f) (k (setBuffers c p f))) :
    SameResult (r.bind k) (r'.bind k) := by
  cases r with
  | error e => cases h; exact rfl
  | ok f => obtain ⟨c, p, hu, rfl⟩ := h; exact hk f c p rfl hu

theorem SameResult.map {r r' : Except Fault Fru} {k : Fru → Fru} (h : SameResult r r')
    (hk : ∀ f c p, Unseen f c p → Unseen (k f) c p ∧ k (setBuffers c p f) = setBuffers c p (k f)) :
    SameResult (r.map k) (r'.map k) := by
  cases r with
  | error e => cases h; exact rfl
  | ok f =>
    obtain ⟨c, p, hu, rfl⟩ := h
    obtain ⟨hk, heq⟩ := hk f c p hu
    exact ⟨c, p, hk, congrArg Except.ok heq⟩

theorem SameResult.withFru {r r' : Except Fault Fru} (h : SameResult r r') (s : State) (c p : List Byte)
    (d : Nat) : SameOutcome (withFru s r) (withFru (setUnseen c p d s) r') := by
  cases r with
  | error e => cases h; exact rfl
  | ok f => obtain ⟨c', p', hu, rfl⟩ := h; exact sameButUnwritten_iff.mpr ⟨c', p', d, hu, rfl⟩

/-! ### The steps of a push -/

theorem unseen_endOfImage {f : Fru} {c p : List Byte} (h : Unseen f c p) : Unseen (endOfImage f) c p := by
  rw [endOfImage_eq]
  refine h.congr rfl rfl (fun hr => ?_) (.inr ⟨rfl, rfl⟩)
  dsimp only at hr
  split at hr
  · cases hr
  · exact hr

theorem endOfImage_setBuffers (c p : List Byte) (f : Fru) :
    endOfImage (setBuffers c p f) = setBuffers c p (endOfImage f) := by
  rw [endOfImage_eq, endOfImage_eq]
  rfl

/-- The rows that two such buffers hold at the end of a record are equal (40_filter_reconstruction.md R77). -/
theorem Unseen.take_eq {f : Fru} {c p : List Byte} (h : Unseen f c p) (hrun : f.state = .run)
    (hfill : f.fill = 1 + rowBytes f) (hft : f.ft.toNat ≤ 4) :
    c.take (rowBytes f) = f.cur.take (rowBytes f) := by
  refine List.ext_getElem (by simp [h.curLength]) fun x hx hx' => ?_
  have hlt : x < rowBytes f ∧ x < f.cur.length := by simpa using hx'
  have := h.written hrun x (by omega) hft
  have hc := h.curLength
  simpa [List.getD_eq_getElem?_getD, hlt.2, hc] using this

/-- A commit copies bytes of the record in progress only. -/
theorem sameResult_commitRow {f : Fru} {c p : List Byte} (h : Unseen f c p) (hrun : f.state = .run)
    (hfill : f.fill = 1 + rowBytes f) (hft : f.ft.toNat ≤ 4) :
    SameResult (commitRow f) (commitRow (setBuffers c p f)) := by
  have hrow := h.take_eq hrun hfill hft
  have hprior := h.prior hrun
  have hlen := h.curLength
  subst hprior
  by_cases hfits : rowBytes f ≤ f.cur.length ∧ rowBytes f ≤ f.prior.length
  · rw [commitRow_eq hfits.1 hfits.2,
      commitRow_eq (f := setBuffers c f.prior f) (hlen.symm ▸ hfits.1) hfits.2]
    refine ⟨c, f.cur.take (rowBytes f) ++ f.prior.drop (rowBytes f), ?_, ?_⟩
    · exact ⟨hlen, rfl, fun _ => rfl, fun _ x hx => absurd hx (Nat.not_lt_zero x)⟩
    · rw [← hrow]
      rfl
  · have hstop {g : Fru} (hg : ¬ (rowBytes g ≤ g.cur.length ∧ rowBytes g ≤ g.prior.length)) :
        commitRow g = .error .lineBufferRange := if_neg hg
    rw [hstop hfits, hstop (g := setBuffers c f.prior f) (hlen.symm ▸ hfits)]
    rfl

/-- The completion check does not look at the line buffers but to commit (40_filter_reconstruction.md R77). -/
theorem sameResult_completionCheck {f : Fru} {c p : List Byte} (h : Unseen f c p) (hrun : f.state = .run) :
    SameResult (completionCheck f) (completionCheck (setBuffers c p f)) := by
  by_cases hfill : f.fill = 1 + rowBytes f
  · have hfill' : (setBuffers c p f).fill = 1 + rowBytes (setBuffers c p f) := hfill
    rcases Nat.lt_or_ge 4 f.ft.toNat with hft | hft
    · rw [completionCheck_of_invalid hfill hft, completionCheck_of_invalid hfill' hft]
      by_cases ho : f.oninv = true
      · have ho' : (setBuffers c p f).oninv = true := ho
        rw [if_pos ho, if_pos ho']
        have hskip : Unseen (skipRow f) c p := h.congr rfl rfl id (.inl (Nat.zero_le 1))
        exact endOfImage_setBuffers c p (skipRow f) ▸ .ok (unseen_endOfImage hskip)
      · have ho' : ¬ (setBuffers c p f).oninv = true := ho
        rw [if_neg ho, if_neg ho']
        exact .ok (f := raiseFault .unsupportedFilterTag f) (h.congr rfl rfl nofun (.inr ⟨rfl, rfl⟩))
    · rw [completionCheck_of_valid hfill hft, completionCheck_of_valid hfill' hft]
      refine (sameResult_commitRow h hrun hfill hft).map fun g c p hu => ?_
      exact ⟨unseen_endOfImage hu, endOfImage_setBuffers c p g⟩
  · rw [completionCheck_of_ne hfill, completionCheck_of_ne (f := setBuffers c p f) hfill]
    exact .ok h

/-- The neighbours of a sample byte (40_filter_reconstruction.md R75) are in PRIOR and in the record in
progress. -/
theorem Unseen.rawByte_eq {f : Fru} {c p : List Byte} (h : Unseen f c p) (hrun : f.state = .run)
    (hft : f.ft.toNat ≤ 4) (t : Filter) (d : Byte) :
    rawByte t d (setBuffers c p f) (f.fill - 1) = rawByte t d f (f.fill - 1) := by
  have hleft : left (setBuffers c p f) (f.fill - 1) = left f (f.fill - 1) := by
    unfold left
    split
    next hx => exact h.written hrun _ (by omega) hft
    next => rfl
  have habove : above (setBuffers c p f) (f.fill - 1) = above f (f.fill - 1) := by
    rw [h.prior hrun]
    rfl
  have hupperLeft : upperLeft (setBuffers c p f) (f.fill - 1) = upperLeft f (f.fill - 1) := by
    rw [h.prior hrun]
    rfl
  rw [rawByte, rawByte, hleft, habove, hupperLeft]

/-- The byte a sample step writes goes to the same place of both line buffers, and makes the record in progress
one byte longer in both. -/
theorem Unseen.writeByte {f : Fru} {c p : List Byte} (h : Unseen f c p)
    (hin : f.fill - 1 < f.cur.length) (b : Byte) :
    Unseen { f with cur := f.cur.set (f.fill - 1) b, fill := f.fill + 1 } (c.set (f.fill - 1) b) p where
  curLength := by simpa using h.curLength
  priorLength := h.priorLength
  prior := h.prior
  written hr x hx ht := by
    have hc := h.curLength
    rcases Nat.lt_or_ge x (f.fill - 1) with hlt | hge
    · simpa [List.getD_eq_getElem?_getD, List.getElem?_set_ne hlt.ne'] using h.written hr x hlt ht
    · have hlast : x = f.fill - 1 := by dsimp only at hx; omega
      subst hlast
      simp [List.getD_eq_getElem?_getD, hin, hc]

/-- A sample step under a valid tag (40_filter_reconstruction.md R76). -/
theorem sampleStep_of_filter {f : Fru} {t : Filter} (d : Byte) (ht : filterOfTag f.ft = some t) :
    sampleStep d f =
      if inLineBuffers f (f.fill - 1) then
        .ok { f with cur := f.cur.set (f.fill - 1) (rawByte t d f (f.fill - 1)), fill := f.fill + 1 }
      else .error .lineBufferRange := by
  simp [sampleStep, ht]

/-- A sample step under an invalid tag (40_filter_reconstruction.md R76). -/
theorem sampleStep_of_invalid {f : Fru} (d : Byte) (ht : 5 ≤ f.ft.toNat) :
    sampleStep d f = .ok { f with fill := f.fill + 1 } := by
  simp [sampleStep, filterOfTag_none_of_le ht]

/-- A sample step reads and writes the same in both line buffers (40_filter_reconstruction.md R76). -/
theorem sameResult_sampleStep {f : Fru} {c p : List Byte} (h : Unseen f c p) (hrun : f.state = .run)
    (d : Byte) : SameResult (sampleStep d f) (sampleStep d (setBuffers c p f)) := by
  rcases Nat.lt_or_ge 4 f.ft.toNat with hft | hft
  · rw [sampleStep_of_invalid d hft, sampleStep_of_invalid (f := setBuffers c p f) d hft]
    have hnext : Unseen { f with fill := f.fill + 1 } c p :=
      { h with written := fun _ _ _ hvalid => absurd hvalid (Nat.not_le.mpr hft) }
    exact .ok hnext
  · obtain ⟨t, ht⟩ := exists_filterOfTag hft
    have hrange : inLineBuffers (setBuffers c p f) (f.fill - 1) = inLineBuffers f (f.fill - 1) := by
      simp [inLineBuffers, setBuffers, h.curLength, h.priorLength]
    have hraw : rawByte t d (setBuffers c p f) (f.fill - 1) = rawByte t d f (f.fill - 1) :=
      h.rawByte_eq hrun hft t d
    rw [sampleStep_of_filter d ht, sampleStep_of_filter (f := setBuffers c p f) d ht]
    show SameResult _ (if inLineBuffers (setBuffers c p f) (f.fill - 1) then _ else _)
    rw [hrange]
    split
    next hin =>
      have hcur := ((inLineBuffers_iff f _).mp hin).1
      exact ⟨_, _, h.writeByte hcur (rawByte t d f (f.fill - 1)), by rw [← hraw]; rfl⟩
    next => exact rfl

/-- The push of a byte in RUN: the tag or a sample byte, then the completion check
(42_host_transactions.md R108). -/
theorem sameResult_pushInRun {f : Fru} {c p : List Byte} (h : Unseen f c p) (hrun : f.state = .run)
    (outcap : Nat) (d : Byte) :
    SameResult (pushInRun outcap d f) (pushInRun outcap d (setBuffers c p f)) := by
  unfold pushInRun
  show SameResult (if f.fill = 0 then _ else _) (if f.fill = 0 then _ else _)
  split
  · show SameResult (if hasRoom outcap f then _ else _) (if hasRoom outcap f then _ else _)
    split
    · have htag : Unseen (tagStep d f) c p := h.congr rfl rfl id (.inl le_rfl)
      exact sameResult_completionCheck htag hrun
    · exact .ok (f := raiseFault .inputOverrun f) (h.congr rfl rfl nofun (.inr ⟨rfl, rfl⟩))
  · refine (sameResult_sampleStep h hrun d).bind fun m _ _ hm hu => ?_
    obtain ⟨hframe, _⟩ := sampleStep_frame hm
    have hm' : m.state = .run := by rw [hframe]; exact hrun
    exact sameResult_completionCheck hu hm'

/-- The push of a byte, in every STATE (42_host_transactions.md R108). -/
theorem sameResult_pushByte {f : Fru} {c p : List Byte} (h : Unseen f c p) (outcap : Nat) (d : Byte) :
    SameResult (pushByte outcap d f) (pushByte outcap d (setBuffers c p f)) := by
  cases hs : f.state with
  | idle =>
    rw [pushByte_of_dropped outcap d (.inl hs), pushByte_of_dropped (f := setBuffers c p f) outcap d (.inl hs)]
    exact .ok h
  | fault =>
    rw [pushByte_of_dropped outcap d (.inr hs), pushByte_of_dropped (f := setBuffers c p f) outcap d (.inr hs)]
    exact .ok h
  | done =>
    rw [pushByte_of_done outcap d hs, pushByte_of_done (f := setBuffers c p f) outcap d hs]
    exact .ok (f := { f with trail := true }) (h.congr rfl rfl id (.inr ⟨rfl, rfl⟩))
  | run =>
    rw [pushByte_of_run outcap d hs, pushByte_of_run (f := setBuffers c p f) outcap d hs]
    exact sameResult_pushInRun h hs outcap d

/-- The pushes of a sequence of bytes. -/
theorem sameResult_pushBytes (outcap : Nat) (ds : List Byte) {f : Fru} {c p : List Byte}
    (h : Unseen f c p) :
    SameResult (pushBytes outcap ds f) (pushBytes outcap ds (setBuffers c p f)) := by
  induction ds generalizing f c p with
  | nil => exact .ok h
  | cons d ds ih => exact (sameResult_pushByte h outcap d).bind fun _ _ _ _ hu => ih hu

/-! ### Every instruction and every step -/

/-- START takes other bytes in CUR to other bytes in CUR, and gives PRIOR the same zeros
(42_host_transactions.md R103). -/
theorem startRun_setBuffers (maxw : Nat) (c p : List Byte) (f : Fru) :
    startRun maxw (setBuffers c p f) =
      setBuffers c (List.replicate (3 * maxw) 0#8) (startRun maxw f) := by
  rw [startRun_eq, startRun_eq, endOfImage_eq, endOfImage_eq]
  show (if maxw < f.width.toNat then _ else _) = setBuffers _ _ (if maxw < f.width.toNat then _ else _)
  split <;> rfl

/-- After START nothing is written of a record, and PRIOR is zeros (42_host_transactions.md R103). -/
theorem unseen_startRun {f : Fru} {c : List Byte} (maxw : Nat) (hc : c.length = f.cur.length) :
    Unseen (startRun maxw f) c (List.replicate (3 * maxw) 0#8) := by
  have hclear : Unseen (clearRun maxw f) c (List.replicate (3 * maxw) 0#8) :=
    ⟨hc, rfl, fun _ => rfl, fun _ x hx => absurd hx (Nat.not_lt_zero x)⟩
  rw [startRun_eq]
  split
  · exact hclear.congr rfl rfl nofun (.inl (Nat.zero_le 1))
  · exact unseen_endOfImage
      ⟨hc, rfl, fun _ => rfl, fun _ x hx => absurd hx (Nat.not_lt_zero x)⟩

/-- Two resets of the FRU differ in the free bytes of CUR and PRIOR only (10_state.md R39). -/
theorem unseen_reset (draw draw' maxw : Nat) :
    Unseen (Fru.reset draw maxw) (Fru.reset draw' maxw).cur (Fru.reset draw' maxw).prior :=
  ⟨by simp, by simp, nofun, nofun⟩

/-- What neither pushes nor starts nor resets commutes with a change of the line buffers. -/
theorem exec_setUnseen {i : Instr} (hi : isInput i = false) (hs : i ≠ .frStart) (hr : i ≠ .frReset)
    (c p : List Byte) (d : Nat) (s : State) :
    exec i (setUnseen c p d s) = mapNext (setUnseen c p d) (exec i s) := by
  have hstate : (setUnseen c p d s).fru.state = s.fru.state := rfl
  cases i
  case frStart => exact absurd rfl hs
  case frReset => exact absurd rfl hr
  case frEos => rw [exec_frEos, exec_frEos, hstate]; split <;> rfl
  case wrFrCfg data => rw [exec_wrFrCfg, exec_wrFrCfg, hstate]; split <;> rfl
  case wrFrWidth data => rw [exec_wrFrWidth, exec_wrFrWidth, hstate]; split <;> rfl
  case wrFrHeight data => rw [exec_wrFrHeight, exec_wrFrHeight, hstate]; split <;> rfl
  case frPop => rw [exec_frPop, exec_frPop]; rfl
  all_goals first | rfl | cases hi

/-- Every instruction has the same outcome on both states. -/
theorem sameOutcome_exec (i : Instr) {s : State} {c p : List Byte} (d : Nat) (h : Unseen s.fru c p) :
    SameOutcome (exec i s) (exec i (setUnseen c p d s)) := by
  by_cases hi : isInput i = true
  · obtain ⟨ds, hds⟩ := exec_input hi
    rw [hds, hds]
    exact (sameResult_pushBytes s.outcap ds h).withFru s c p d
  by_cases hs : i = .frStart
  · subst hs
    refine sameButUnwritten_iff.mpr ⟨c, _, d, unseen_startRun s.maxw h.curLength, ?_⟩
    show { setUnseen c p d s with fru := startRun s.maxw (setBuffers c p s.fru) } = _
    rw [startRun_setBuffers]
    rfl
  by_cases hr : i = .frReset
  · subst hr
    exact sameButUnwritten_iff.mpr ⟨_, _, d + 1, unseen_reset s.draw d s.maxw, rfl⟩
  have hi : isInput i = false := by simpa using hi
  rw [exec_setUnseen hi hs hr]
  cases he : exec i s with
  | fault e => exact rfl
  | refused e => exact rfl
  | next u =>
    obtain ⟨_, hfill, hft, hcur, hprior⟩ := onlyInputMovesThePosition i s u he hi hs hr
    have hrun (hu : u.fru.state = .run) : s.fru.state = .run := by
      by_contra hn
      exact hs (onlyStartEntersRun i s u he hn hu)
    exact sameButUnwritten_iff.mpr ⟨c, p, d, h.congr hcur hprior hrun (.inr ⟨hfill, hft⟩), rfl⟩

/-- Settles O54: a step does nothing, resets the hardware, or executes on both states the same instruction,
which the unspecified bytes do not touch. -/
theorem unspecifiedBytesAreNeverSeen : Obligations.UnspecifiedBytesAreNeverSeen := by
  intro s t h
  obtain ⟨c, p, d, hu, rfl⟩ := sameButUnwritten_iff.mp h
  have hinput : (setUnseen c p d s).input = s.input := rfl
  unfold step
  rw [hinput]
  cases s.input with
  | nil => exact h
  | cons item rest =>
    cases item with
    | hardwareReset => exact sameButUnwritten_iff.mpr ⟨_, _, d + 1, unseen_reset s.draw d s.maxw, rfl⟩
    | code code =>
      have hfetch : fetched (setUnseen c p d s) code = fetched s code := rfl
      dsimp only
      rw [hfetch]
      cases fetched s code with
      | error e => exact rfl
      | ok i => exact sameOutcome_exec i (s := beginTransaction rest s) d hu

end Sys2Proof.Machine
end

section
/-! The block without input (20_memory.md R44, O6). -/

namespace Sys2Proof.Machine

/-- Settles O6: with the empty list of inputs `step` takes its first branch, which returns the state. -/
theorem idleBlockChangesNothing : Obligations.IdleBlockChangesNothing := by
  intro s hinput
  unfold step
  rw [hinput]

end Sys2Proof.Machine
end

section
/-! The decoder and the encoder are inverse to each other (O1, O2, O3, O4), and what the numbers of the wrong
direction decode to (O37). -/

namespace Sys2Proof.Machine

/-! ### Register numbers -/

/-- A write of a number without a row of its own is WR.NONE (42_host_transactions.md R102). -/
theorem decodeWrite_of_notMem {n : RegNum} (h : n ∉ writableRegs) (v : Word) :
    decodeWrite n v = .wrNone n v := by
  unfold decodeWrite
  split
  case h_9 => rfl
  all_goals exact absurd (by decide) h

/-- A read of a number without a row of its own is RD.NONE (42_host_transactions.md R101). -/
theorem decodeRead_of_notMem {n : RegNum} : n ∉ readableRegs → decodeRead n = .rdNone n := by
  revert n
  decide

/-- Settles O37: no read-only number has a row of its own as a write, no write-only number as a read. -/
theorem wrongDirectionSelectsNothing : Obligations.WrongDirectionSelectsNothing := by
  have hwrite : ∀ n : RegNum, n.toNat ∈ [4, 5, 6, 8, 9, 10, 11, 12, 13, 18, 20] → n ∉ writableRegs := by
    decide
  have hread : ∀ n : RegNum, n.toNat ∈ [0, 7, 16, 17] → n ∉ readableRegs := by decide
  intro s n v
  refine ⟨fun hn => ⟨?_, rfl⟩, fun hn => ⟨?_, rfl⟩⟩
  · rw [decodeWord_encodeTx, if_pos rfl, decodeWrite_of_notMem (hwrite n hn)]
  · rw [decodeWord_encodeTx, if_neg nofun, decodeRead_of_notMem (hread n hn)]

/-! ### Transaction words -/

/-- A transaction word is its three fields (30_encoding.md R56). -/
theorem encodeTx_fields (w : TxWord) : encodeTx (txIsWrite w) (txReg w) (txData w) = w := by
  have hdir : BitVec.ofBool (txIsWrite w) = w.extractLsb' 38 1 := by
    ext i hi
    simp [txIsWrite, show i = 0 by omega]
  rw [encodeTx, hdir, txReg, txData, BitVec.extractLsb'_append_extractLsb'_eq_extractLsb' (by decide),
    BitVec.extractLsb'_append_extractLsb'_eq_extractLsb' (by decide)]
  exact BitVec.extractLsb'_eq_self

/-- Every code of FR_CMD has its row (30_encoding.md R57). -/
theorem decodeFrCmd_spelled (v : Word) :
    (decodeFrCmd v).wellFormed = true ∧ encode (decodeFrCmd v) = encodeWr 0#6 v := by
  unfold decodeFrCmd
  split; · subst v; exact ⟨rfl, rfl⟩
  split; · subst v; exact ⟨rfl, rfl⟩
  split; · subst v; exact ⟨rfl, rfl⟩
  next h1 h2 h3 => exact ⟨by simp [Instr.wellFormed, Instr.filtered, h1, h2, h3], rfl⟩

/-- Every code of CRC_CMD has its row (30_encoding.md R57). -/
theorem decodeCrcCmd_spelled (v : Word) :
    (decodeCrcCmd v).wellFormed = true ∧ encode (decodeCrcCmd v) = encodeWr 16#6 v := by
  unfold decodeCrcCmd
  split
  next => subst v; exact ⟨rfl, rfl⟩
  next h => exact ⟨by simp [Instr.wellFormed, Instr.filtered, h], rfl⟩

/-- Every write decodes to an instruction the table can spell, with its data (42_host_transactions.md R102). -/
theorem decodeWrite_spelled (n : RegNum) (v : Word) :
    (decodeWrite n v).wellFormed = true ∧ encode (decodeWrite n v) = encodeWr n v := by
  by_cases hn : n ∈ writableRegs
  · simp only [writableRegs, List.mem_cons, List.not_mem_nil, or_false] at hn
    rcases hn with rfl | rfl | rfl | rfl | rfl | rfl | rfl | rfl
    case inl => exact decodeFrCmd_spelled v
    case inr.inr.inr.inr.inr.inl => exact decodeCrcCmd_spelled v
    all_goals exact ⟨rfl, rfl⟩
  · rw [decodeWrite_of_notMem hn]
    exact ⟨by simpa [Instr.wellFormed, Instr.filtered] using hn, rfl⟩

/-- Every read decodes to an instruction the table can spell (42_host_transactions.md R101). -/
theorem decodeRead_spelled (n : RegNum) :
    (decodeRead n).wellFormed = true ∧ encode (decodeRead n) = encodeRd n := by
  revert n
  decide

/-- Settles O2: a write is encoded with all its fields, a read with its direction and number, which are the bits
that the mask keeps. -/
theorem encodeOfDecodedWord : Obligations.EncodeOfDecodedWord := by
  intro w
  obtain ⟨b, n, v, rfl⟩ : ∃ b n v, w = encodeTx b n v := ⟨_, _, _, (encodeTx_fields w).symm⟩
  have hdir : (encodeTx b n v).getLsbD 38 = b := txIsWrite_encodeTx b n v
  rw [decodeWord_encodeTx, hdir]
  cases b with
  | true => exact decodeWrite_spelled n v
  | false =>
    simpa [Laws.TableRow.encodeTx_and, encodeRd] using decodeRead_spelled n

/-- The word of a well-formed transaction decodes to it: a reserved code is none of the codes with rows of their
own, and a number that selects nothing none of the numbers with rows of their own. -/
theorem decodeWord_of_encode {i : Instr} {w : TxWord} (hi : i.wellFormed = true)
    (h : encode i = .word w) : decodeWord w = i := by
  cases i
  case frCmdReserved code =>
    cases h
    have hcode : (code ≠ 1#32 ∧ code ≠ 2#32) ∧ code ≠ 3#32 := by
      simpa [Instr.wellFormed, Instr.filtered] using hi
    simp [decodeWrite, decodeFrCmd, hcode]
  case crcCmdReserved code =>
    cases h
    have hcode : code ≠ 1#32 := by simpa [Instr.wellFormed, Instr.filtered] using hi
    simp [decodeWrite, decodeCrcCmd, hcode]
  case rdNone reg =>
    cases h
    have hreg : reg ∉ readableRegs := by simpa [Instr.wellFormed, Instr.filtered] using hi
    simp [decodeRead_of_notMem hreg]
  case wrNone reg data =>
    cases h
    have hreg : reg ∉ writableRegs := by simpa [Instr.wellFormed, Instr.filtered] using hi
    simp [decodeWrite_of_notMem hreg]
  all_goals cases h <;> simp [decodeWrite, decodeRead, decodeFrCmd, decodeCrcCmd]

/-! ### Records

The sample bytes play no part in the choice of the row. So what the tag decides is checked on the records that
are a tag alone, all 256 of them. -/

/-- The record with other sample bytes; a transaction stays as it is. -/
def withFiltered (fs : List Byte) : Instr → Instr
  | .slNone _ => .slNone fs
  | .slSub _ => .slSub fs
  | .slUp _ => .slUp fs
  | .slAvg _ => .slAvg fs
  | .slPaeth _ => .slPaeth fs
  | .slInvalid05 _ => .slInvalid05 fs
  | .slInvalid06 low _ => .slInvalid06 low fs
  | .slInvalid08 low _ => .slInvalid08 low fs
  | .slInvalid10 low _ => .slInvalid10 low fs
  | .slInvalid20 low _ => .slInvalid20 low fs
  | .slInvalid40 low _ => .slInvalid40 low fs
  | .slInvalid80 low _ => .slInvalid80 low fs
  | i => i

/-- The row is that of the tag alone, the sample bytes are its operand (30_encoding.md R50, R52). -/
theorem decodeTag_eq_withFiltered (tag : Byte) (fs : List Byte) :
    decodeTag tag fs = withFiltered fs (decodeTag tag []) := by
  simp only [decodeTag, apply_ite (withFiltered fs)]
  rfl

theorem isInvalidRecord_withFiltered (fs : List Byte) (i : Instr) :
    isInvalidRecord (withFiltered fs i) = isInvalidRecord i := by
  cases i <;> rfl

theorem encode_withFiltered {i : Instr} {tag : Byte} {gs : List Byte}
    (h : encode i = .record (tag :: gs)) (fs : List Byte) :
    encode (withFiltered fs i) = .record (tag :: fs) := by
  cases i <;> cases h <;> rfl

theorem withFiltered_withFiltered (fs gs : List Byte) (i : Instr) :
    withFiltered fs (withFiltered gs i) = withFiltered fs i := by
  cases i <;> rfl

theorem withFiltered_filtered (i : Instr) : withFiltered i.filtered i = i := by
  cases i <;> rfl

/-- Settles O3: neither side depends on the sample bytes but for carrying them, and without any the 256 tags are
decided one by one. -/
theorem everyTagKeepsItsBits : Obligations.EveryTagKeepsItsBits := by
  have htag : ∀ tag : Byte, encode (decodeTag tag []) = .record [tag] ∧
      (isInvalidRecord (decodeTag tag []) = true ↔ 5 ≤ tag.toNat) := by decide
  intro tag fs
  obtain ⟨hbits, hinvalid⟩ := htag tag
  rw [decodeTag_eq_withFiltered, isInvalidRecord_withFiltered]
  exact ⟨encode_withFiltered hbits fs, hinvalid⟩

/-- The bytes of a record are its tag and its sample bytes (30_encoding.md R50). -/
theorem bytes_of_encode {i : Instr} {bytes : List Byte} (h : encode i = .record bytes) :
    ∃ tag, bytes = tag :: i.filtered := by
  cases i <;> cases h <;> exact ⟨_, rfl⟩

/-- The tag of an encoded record decodes to its row, with its free bits (30_encoding.md R52, R53). -/
theorem decodeTag_of_encode {i : Instr} {tag : Byte} (h : encode i = .record (tag :: i.filtered)) :
    decodeTag tag i.filtered = i := by
  have hrow : decodeTag tag [] = withFiltered [] i := by
    cases i
    case slInvalid06 low _ =>
      cases h
      exact (by decide : ∀ low : BitVec 1, decodeTag (0x03#7 ++ low) [] = .slInvalid06 low []) low
    case slInvalid08 low _ =>
      cases h
      exact (by decide : ∀ low : BitVec 3, decodeTag (0x01#5 ++ low) [] = .slInvalid08 low []) low
    case slInvalid10 low _ =>
      cases h
      exact (by decide : ∀ low : BitVec 4, decodeTag (0x1#4 ++ low) [] = .slInvalid10 low []) low
    case slInvalid20 low _ =>
      cases h
      exact (by decide : ∀ low : BitVec 5, decodeTag (0x1#3 ++ low) [] = .slInvalid20 low []) low
    case slInvalid40 low _ =>
      cases h
      exact (by decide : ∀ low : BitVec 6, decodeTag (0x1#2 ++ low) [] = .slInvalid40 low []) low
    case slInvalid80 low _ =>
      cases h
      exact (by decide : ∀ low : BitVec 7, decodeTag (0x1#1 ++ low) [] = .slInvalid80 low []) low
    all_goals cases h <;> rfl
  rw [decodeTag_eq_withFiltered, hrow, withFiltered_withFiltered, withFiltered_filtered]

/-- Bytes of the length that FR_WIDTH asks for are a record (30_encoding.md R50, R51). -/
theorem decodeRecord_of_length {width : Nat} {filtered : List Byte} (h : filtered.length = 3 * width)
    (tag : Byte) : decodeRecord width (tag :: filtered) = .ok (decodeTag tag filtered) :=
  if_pos h

/-- A well-formed record holds whole pixels (30_encoding.md R55). -/
theorem filtered_length_of_wellFormed {i : Instr} (hi : i.wellFormed = true) :
    i.filtered.length = 3 * i.pixels := by
  unfold Instr.wellFormed at hi
  have hmod : i.filtered.length % 3 = 0 := by simpa using (Bool.and_eq_true_iff.mp hi).1
  unfold Instr.pixels
  omega

/-- Settles O1: by the kind of the code, a transaction word or the bytes of a record. -/
theorem decodeOfEncode : Obligations.DecodeOfEncode := by
  intro i hi
  cases h : encode i with
  | word w => exact congrArg Except.ok (decodeWord_of_encode hi h)
  | record bytes =>
    obtain ⟨tag, rfl⟩ := bytes_of_encode h
    exact (decodeRecord_of_length (filtered_length_of_wellFormed hi) tag).trans
      (congrArg Except.ok (decodeTag_of_encode h))

/-- Settles O4: the decoder run on the nine words. -/
theorem listedWordsDecode : Obligations.ListedWordsDecode := by
  unfold Obligations.ListedWordsDecode
  decide

end Sys2Proof.Machine
end

section
/-! A record as one instruction and as the pushes of its bytes (30_encoding.md R62, O12). -/

namespace Sys2Proof.Machine

/-- The record whose bytes come next, at the length FR_WIDTH asks for, is executed as the push of its bytes. -/
theorem step_record {s : State} {tag : Byte} {filtered : List Byte} {rest : List HostInput}
    (hin : s.input = .code (.record (tag :: filtered)) :: rest)
    (hlen : filtered.length = 3 * s.fru.width.toNat) :
    step s = pushRecord tag filtered (beginTransaction rest s) := by
  have hfetch : fetched s (.record (tag :: filtered)) = .ok (decodeTag tag filtered) :=
    decodeRecord_of_length hlen tag
  unfold step
  rw [hin]
  dsimp only
  rw [hfetch]
  exact exec_decodeTag tag filtered _

/-- The byte that FR.PUSH takes from a data field with that byte in bits 7:0 (30_encoding.md R58). -/
theorem pushedByte_setWidth (b : Byte) : pushedByte (b.setWidth 32) = b := by
  revert b
  decide

/-- The FR.PUSH that comes next is executed as the push of its byte. -/
theorem step_frPush {s : State} {b : Byte} {rest : List HostInput}
    (hin : s.input = .code (encode (.frPush (b.setWidth 32))) :: rest) :
    step s = withFru (beginTransaction rest s) (pushByte s.outcap b s.fru) := by
  have hfetch : fetched s (encode (.frPush (b.setWidth 32))) = .ok (.frPush (b.setWidth 32)) :=
    decodeOfEncode (.frPush (b.setWidth 32)) rfl
  unfold step
  rw [hin]
  dsimp only
  rw [hfetch]
  show withFru _ (pushByte s.outcap (pushedByte (b.setWidth 32)) s.fru) = _
  rw [pushedByte_setWidth]

/-! The two lemmas cite the equation of `Host.Core.run` at `core`: `rw` does not see through `core.State`. -/

theorem run_succ_of_next {s t : State} (h : step s = .next t) (k : Nat) :
    Host.Core.run core (k + 1) s = Host.Core.run core k t := by
  have h : core.step s = .next t := h
  rw [Host.Core.run.eq_2 core s k, h]

theorem run_succ_of_fault {s : State} {e : Fault} (h : step s = .fault e) (k : Nat) :
    Host.Core.run core (k + 1) s = .fault e := by
  have h : core.step s = .fault e := h
  rw [Host.Core.run.eq_2 core s k, h]

/-- The run of one FR.PUSH per byte is the push of the bytes. -/
theorem run_frPushes (ds : List Byte) (rest : List HostInput) (s : State) :
    Host.Core.run core ds.length (beginTransaction (frPushes ds ++ rest) s) =
      withFru (beginTransaction rest s) (pushBytes s.outcap ds s.fru) := by
  induction ds generalizing s with
  | nil => rfl
  | cons d ds ih =>
    have hstep : step (beginTransaction (frPushes (d :: ds) ++ rest) s) =
        withFru (beginTransaction (frPushes ds ++ rest) s) (pushByte s.outcap d s.fru) := step_frPush rfl
    rw [pushBytes]
    cases hd : pushByte s.outcap d s.fru with
    | error e => rw [hd] at hstep; exact run_succ_of_fault hstep _
    | ok f => rw [hd] at hstep; exact (run_succ_of_next hstep _).trans (ih { s with fru := f })

/-- Settles O12: both are the push of the tag and the sample bytes, on the state with these inputs taken. -/
theorem recordIsThePushOfItsBytes : Obligations.RecordIsThePushOfItsBytes := by
  intro s tag filtered rest hlen
  rw [Nat.add_comm]
  exact (run_frPushes (tag :: filtered) rest s).trans
    (step_record (s := { s with input := .code (.record (tag :: filtered)) :: rest }) rfl hlen).symm

end Sys2Proof.Machine
end

section
/-! The records of the invalid tags, consumed whole and then failed (O18) or skipped (O19). -/

namespace Sys2Proof.Machine

/-- The sample bytes of a record with an invalid tag only move FILL on, up to the completion check at the end of
the record (40_filter_reconstruction.md R76, R77). -/
theorem pushBytes_samples_of_invalid (outcap : Nat) {ds : List Byte} {f : Fru} (hrun : f.state = .run)
    (hft : 5 ≤ f.ft.toNat) (hstarted : f.fill ≠ 0) (hend : f.fill + ds.length = 1 + rowBytes f) :
    (completionCheck f).bind (pushBytes outcap ds) =
      completionCheck { f with fill := f.fill + ds.length } := by
  induction ds generalizing f with
  | nil => exact bind_pure (completionCheck f)
  | cons d ds ih =>
    rw [List.length_cons] at hend ⊢
    have hstep : pushByte outcap d f = completionCheck { f with fill := f.fill + 1 } := by
      rw [pushByte_of_run outcap d hrun, pushInRun, if_neg hstarted, sampleStep_of_invalid d hft]
      rfl
    calc (completionCheck f).bind (pushBytes outcap (d :: ds))
        = pushBytes outcap (d :: ds) f := by rw [completionCheck_of_ne (by omega)]; rfl
      _ = (completionCheck { f with fill := f.fill + 1 }).bind (pushBytes outcap ds) := by
          rw [pushBytes, hstep]
      _ = completionCheck { f with fill := f.fill + 1 + ds.length } :=
          ih (f := { f with fill := f.fill + 1 }) hrun hft (Nat.succ_ne_zero _)
            (show f.fill + 1 + ds.length = 1 + rowBytes f by omega)
      _ = completionCheck { f with fill := f.fill + (ds.length + 1) } := by
          rw [Nat.add_right_comm, Nat.add_assoc]

/-- The tag of a record is taken at a record boundary with room (42_host_transactions.md R108). -/
theorem ReadyForRecord.pushByte_eq {s : State} {filtered : List Byte} (h : ReadyForRecord s filtered)
    (tag : Byte) : pushByte s.outcap tag s.fru = completionCheck (tagStep tag s.fru) := by
  have hroom : hasRoom s.outcap s.fru = true := (hasRoom_iff _ _).mpr h.room
  rw [pushByte_of_run _ _ h.run, pushInRun, if_pos h.boundary, if_pos hroom]

/-- The record of an invalid tag, in every state that is ready for it. -/
theorem ReadyForRecord.pushRecord_of_invalid {s : State} {filtered : List Byte}
    (h : ReadyForRecord s filtered) {tag : Byte} (ht : 5 ≤ tag.toNat) :
    pushRecord tag filtered s =
      .next (if s.fru.oninv then skippedRecord s tag else failedRecord s tag) := by
  have hend : 1 + filtered.length = 1 + rowBytes s.fru := by rw [h.length, rowBytes]
  have hpush : pushBytes s.outcap (tag :: filtered) s.fru =
      completionCheck { tagStep tag s.fru with fill := 1 + filtered.length } := by
    rw [pushBytes, h.pushByte_eq]
    exact pushBytes_samples_of_invalid s.outcap (f := tagStep tag s.fru) h.run ht (by simp) hend
  rw [pushRecord, hpush, completionCheck_of_invalid hend ht]
  show withFru s (.ok (if s.fru.oninv then _ else _)) = _
  split
  next =>
    rw [endOfImage_eq, skippedRecord, ← h.run]
    rfl
  next =>
    rw [failedRecord, ← h.length]
    rfl

/-- What the push of a record does under every invalid tag is what the seven rows do: their tags are 05 to FF
(30_encoding.md R53). -/
theorem exec_invalidRows {s : State} {filtered : List Byte} {after : Byte → State}
    (h : ∀ tag : Byte, 5 ≤ tag.toNat → pushRecord tag filtered s = .next (after tag)) :
    exec (.slInvalid05 filtered) s = .next (after 0x05#8) ∧
    (∀ low, exec (.slInvalid06 low filtered) s = .next (after (0x03#7 ++ low))) ∧
    (∀ low, exec (.slInvalid08 low filtered) s = .next (after (0x01#5 ++ low))) ∧
    (∀ low, exec (.slInvalid10 low filtered) s = .next (after (0x1#4 ++ low))) ∧
    (∀ low, exec (.slInvalid20 low filtered) s = .next (after (0x1#3 ++ low))) ∧
    (∀ low, exec (.slInvalid40 low filtered) s = .next (after (0x1#2 ++ low))) ∧
    (∀ low, exec (.slInvalid80 low filtered) s = .next (after (0x1#1 ++ low))) := by
  exact ⟨h _ (by decide), fun _ => h _ (by decide +revert), fun _ => h _ (by decide +revert),
    fun _ => h _ (by decide +revert), fun _ => h _ (by decide +revert), fun _ => h _ (by decide +revert),
    fun _ => h _ (by decide +revert)⟩

/-- Settles O18: with ONINV = 0 the record of an invalid tag fails, and the seven rows are such records. -/
theorem invalidTagFaultsUnderFail : Obligations.InvalidTagFaultsUnderFail := by
  intro s filtered h ho
  refine exec_invalidRows fun tag ht => ?_
  rw [h.pushRecord_of_invalid ht, ho, if_neg nofun]

/-- Settles O19: with ONINV = 1 the record of an invalid tag is skipped, and the seven rows are such records. -/
theorem invalidTagSkipsUnderSkip : Obligations.InvalidTagSkipsUnderSkip := by
  intro s filtered h ho
  refine exec_invalidRows fun tag ht => ?_
  rw [h.pushRecord_of_invalid ht, if_pos ho]

end Sys2Proof.Machine
end

section
/-! The pushes of a record one byte at a time: the tag (O23), a sample byte (O24), the last byte (O25, O26). -/

namespace Sys2Proof.Machine

/-! ### The predictors -/

/-- The distances of 40_filter_reconstruction.md R79 are those of R74 to the sum `a + b - c`. -/
theorem predPaeth_eq_paethByDistances (a b c : Byte) : predPaeth a b c = paethByDistances a b c := by
  have ha : (a.toNat : Int) + b.toNat - c.toNat - a.toNat = b.toNat - c.toNat := by omega
  have hb : (a.toNat : Int) + b.toNat - c.toNat - b.toNat = a.toNat - c.toNat := by omega
  have hc : (a.toNat : Int) + b.toNat - c.toNat - c.toNat = a.toNat + b.toNat - 2 * c.toNat := by omega
  simp only [predPaeth, paethByDistances, ha, hb, hc]

/-- The predictor of the opcode of a tag is that of the laws (40_filter_reconstruction.md R79). -/
theorem predictor_eq_lawPredictor {tag : Byte} {t : Filter} (h : filterOfTag tag = some t)
    (a b c : Byte) : predictor t a b c = lawPredictor tag a b c := by
  unfold filterOfTag at h
  split at h; · subst tag; cases h; rfl
  split at h; · subst tag; cases h; rfl
  split at h; · subst tag; cases h; rfl
  split at h; · subst tag; cases h; rfl
  split at h; · subst tag; cases h; exact predPaeth_eq_paethByDistances a b c
  cases h

/-! ### One sample byte -/

/-- The raw byte of the pushed byte `d` in the record in progress, by the laws of 40_filter_reconstruction.md
R79; its offset in the row is `FILL - 1` (R76). -/
def nextRawByte (d : Byte) (f : Fru) : Byte :=
  BitVec.ofNat 8 (d.toNat +
    lawPredictor f.ft (if 4 ≤ f.fill then f.cur.getD (f.fill - 4) 0#8 else 0#8)
      (f.prior.getD (f.fill - 1) 0#8)
      (if 4 ≤ f.fill then f.prior.getD (f.fill - 4) 0#8 else 0#8))

theorem rawByte_eq_nextRawByte {f : Fru} {t : Filter} (ht : filterOfTag f.ft = some t) (d : Byte) :
    rawByte t d f (f.fill - 1) = nextRawByte d f := by
  have hpixel : 3 ≤ f.fill - 1 ↔ 4 ≤ f.fill := by omega
  have hback : f.fill - 1 - 3 = f.fill - 4 := by omega
  simp only [rawByte, reconstruct, left, above, upperLeft, predictor_eq_lawPredictor ht, hpixel, hback,
    nextRawByte]

/-- The push of a sample byte under a valid tag writes its raw byte (40_filter_reconstruction.md R76). -/
theorem pushByte_sample_of_valid {f : Fru} (outcap : Nat) (d : Byte) (hrun : f.state = .run)
    (hstarted : f.fill ≠ 0) (hft : f.ft.toNat ≤ 4) (hcur : f.fill ≤ f.cur.length)
    (hprior : f.fill ≤ f.prior.length) :
    pushByte outcap d f =
      completionCheck { f with
        cur := f.cur.set (f.fill - 1) (nextRawByte d f)
        fill := f.fill + 1 } := by
  obtain ⟨t, ht⟩ := exists_filterOfTag hft
  have hin : inLineBuffers f (f.fill - 1) = true := (inLineBuffers_iff f _).mpr ⟨by omega, by omega⟩
  rw [pushByte_of_run outcap d hrun, pushInRun, if_neg hstarted, sampleStep_of_filter d ht, if_pos hin,
    rawByte_eq_nextRawByte ht]
  rfl

/-- The push of a sample byte under an invalid tag discards it (40_filter_reconstruction.md R76). -/
theorem pushByte_sample_of_invalid {f : Fru} (outcap : Nat) (d : Byte) (hrun : f.state = .run)
    (hstarted : f.fill ≠ 0) (hft : 5 ≤ f.ft.toNat) :
    pushByte outcap d f = completionCheck { f with fill := f.fill + 1 } := by
  rw [pushByte_of_run outcap d hrun, pushInRun, if_neg hstarted, sampleStep_of_invalid d hft]
  rfl

/-! ### The end of a record -/

/-- The FRU with the tag `tag` and the first `n` bytes of the raw row `row` of the record in progress, which
began at the record boundary `f`. -/
def midRecord (f : Fru) (tag : Byte) (row : List Byte) (n : Nat) : Fru :=
  { f with
    ft := tag
    cur := row.take n ++ f.cur.drop n
    fill := 1 + n }

theorem tagStep_eq_midRecord (f : Fru) (tag : Byte) (row : List Byte) :
    tagStep tag f = midRecord f tag row 0 := rfl

/-- The last raw byte written to CUR makes the row in progress complete. -/
theorem set_eq_midRecord {f : Fru} (b : Byte) (hstarted : f.fill ≠ 0) (hcur : f.fill ≤ f.cur.length) :
    { f with cur := f.cur.set (f.fill - 1) b, fill := f.fill + 1 } =
      midRecord f f.ft (f.cur.take (f.fill - 1) ++ [b]) (f.cur.take (f.fill - 1) ++ [b]).length := by
  have hlen : (f.cur.take (f.fill - 1) ++ [b]).length = f.fill := by simp; omega
  have hset : f.cur.set (f.fill - 1) b = f.cur.take (f.fill - 1) ++ [b] ++ f.cur.drop f.fill := by
    rw [List.set_eq_take_append_cons_drop, if_pos (by omega), Nat.sub_add_cancel (by omega)]
    simp
  rw [midRecord, List.take_length, hlen, hset, Nat.add_comm]

/-- A record under a valid tag, complete in the first bytes of CUR, is committed (40_filter_reconstruction.md
R77). -/
theorem completionCheck_of_row {f : Fru} {row rest : List Byte} (hfill : f.fill = 1 + rowBytes f)
    (hft : f.ft.toNat ≤ 4) (hcur : f.cur = row ++ rest) (hlen : row.length = rowBytes f)
    (hprior : rowBytes f ≤ f.prior.length) :
    completionCheck f = .ok (endOfImage { f with
      outq := f.outq ++ row
      prior := row ++ f.prior.drop row.length
      rowsOut := f.rowsOut + 1#32
      row := f.row + 1#32
      fill := 0 }) := by
  have hrow : f.cur.take (rowBytes f) = row := hcur ▸ List.take_left' hlen
  have hfits : rowBytes f ≤ f.cur.length := by
    rw [hcur, List.length_append]
    omega
  rw [completionCheck_of_valid hfill hft, commitRow_eq hfits hprior, hrow, hlen]
  rfl

/-- A record under a valid tag whose raw row is complete leaves the committed state (40_filter_reconstruction.md
R77, R82). -/
theorem completionCheck_midRecord {s : State} {tag : Byte} {row : List Byte} (hrun : s.fru.state = .run)
    (htag : tag.toNat ≤ 4) (hlen : row.length = rowBytes s.fru)
    (hprior : rowBytes s.fru ≤ s.fru.prior.length) :
    completionCheck (midRecord s.fru tag row row.length) = .ok (committed s tag row).fru := by
  have hcur : (midRecord s.fru tag row row.length).cur = row ++ s.fru.cur.drop row.length := by
    simp [midRecord]
  rw [completionCheck_of_row (f := midRecord s.fru tag row row.length) (congrArg (1 + ·) hlen) htag hcur
    hlen hprior, endOfImage_eq, hcur, committed, ← hrun]
  rfl

/-- A record under an invalid tag is skipped or fails at its last byte (40_filter_reconstruction.md R81,
60_exceptions.md R122). -/
theorem completionCheck_lastByte_of_invalid {s : State} (hrun : s.fru.state = .run)
    (hlast : s.fru.fill = rowBytes s.fru) (hft : 5 ≤ s.fru.ft.toNat) :
    completionCheck { s.fru with fill := s.fru.fill + 1 } =
      .ok (if s.fru.oninv then skippedRecord s s.fru.ft else failedRecord s s.fru.ft).fru := by
  have hfill : s.fru.fill + 1 = 1 + rowBytes s.fru := by omega
  rw [completionCheck_of_invalid (f := { s.fru with fill := s.fru.fill + 1 }) hfill hft, hfill]
  show Except.ok (if s.fru.oninv then _ else _) = _
  split
  next => rw [endOfImage_eq, skippedRecord, ← hrun]; rfl
  next => rfl

/-! ### FR.PUSH -/

/-- FR.PUSH takes bits 7:0 of its data (30_encoding.md R58). -/
theorem exec_frPush (data : Word) (s : State) :
    exec (.frPush data) s = withFru s (pushByte s.outcap (BitVec.ofNat 8 (data.toNat % 256)) s.fru) := by
  have hbyte : pushedByte data = BitVec.ofNat 8 (data.toNat % 256) := by
    apply BitVec.eq_of_toNat_eq
    simp [pushedByte]
  rw [← hbyte]
  rfl

/-- The push of a tag where there is room for its row (40_filter_reconstruction.md R78). -/
theorem pushByte_tag {outcap : Nat} {f : Fru} (hrun : f.state = .run) (hboundary : f.fill = 0)
    (hroom : f.outq.length + 3 * f.width.toNat ≤ outcap) (tag : Byte) :
    pushByte outcap tag f = completionCheck (tagStep tag f) := by
  rw [pushByte_of_run outcap tag hrun, pushInRun, if_pos hboundary, if_pos ((hasRoom_iff outcap f).mpr hroom)]

/-- Settles O24: a record that is not complete after the sample step stays in progress. -/
theorem samplePushWritesTheRawByte : Obligations.SamplePushWritesTheRawByte := by
  intro s data hrun hstarted hmore hcur hprior
  have hincomplete : s.fru.fill + 1 ≠ 1 + rowBytes s.fru := by unfold rowBytes; omega
  refine ⟨fun hft => ?_, fun hft => ?_⟩
  · rw [exec_frPush, pushByte_sample_of_valid _ _ hrun (by omega) hft (by omega) (by omega),
      completionCheck_of_ne hincomplete, nextRawByte, BitVec.toNat_ofNat, Nat.mod_mod]
    rfl
  · rw [exec_frPush, pushByte_sample_of_invalid _ _ hrun (by omega) hft, completionCheck_of_ne hincomplete]
    rfl

/-- Settles O25: with the last raw byte written, CUR begins with the row, which the completion check
commits. -/
theorem lastSamplePushCommits : Obligations.LastSamplePushCommits := by
  intro s data hrun hlast hstarted hft hcur hprior
  rw [exec_frPush, pushByte_sample_of_valid _ _ hrun (by omega) hft (by omega) (by omega),
    set_eq_midRecord _ (by omega) (by omega)]
  rw [completionCheck_midRecord hrun hft (by simp [rowBytes]; omega) hprior, nextRawByte,
    BitVec.toNat_ofNat, Nat.mod_mod]
  rfl

/-- Settles O23: with sample bytes to come the record is not complete; without any it is complete at its tag,
with the empty row. -/
theorem tagPushStoresTheTag : Obligations.TagPushStoresTheTag := by
  intro s data hrun hboundary hroom
  rw [exec_frPush, pushByte_tag hrun hboundary hroom]
  refine ⟨fun hw => ?_, fun hw htag => ?_⟩
  · have hincomplete : 1 ≠ 1 + rowBytes s.fru := by unfold rowBytes; omega
    rw [completionCheck_of_ne hincomplete]
    rfl
  · have hbytes : rowBytes s.fru = 0 := by simp [rowBytes, hw]
    have hcommit := completionCheck_midRecord (row := []) hrun
      (tag := BitVec.ofNat 8 (data.toNat % 256)) (by simpa using htag) hbytes.symm (by simp [hbytes])
    exact congrArg (withFru s) hcommit

/-- Settles O26: the two shapes of a last byte, a sample byte and a tag without samples. -/
theorem invalidRecordEndsAtItsLastPush : Obligations.InvalidRecordEndsAtItsLastPush := by
  intro s data hrun
  refine ⟨fun hlast hstarted hft => ?_, fun hboundary hw hroom htag => ?_⟩
  · rw [exec_frPush, pushByte_sample_of_invalid _ _ hrun (by omega) hft,
      completionCheck_lastByte_of_invalid hrun hlast hft]
    split <;> rfl
  · have hready : ReadyForRecord s [] :=
      ⟨hrun, hboundary, by simp [hw], by simpa [hw] using hroom, by simp [hw], by simp [hw]⟩
    rw [exec_frPush, ← pushBytes_singleton]
    exact hready.pushRecord_of_invalid (by simpa using htag)

end Sys2Proof.Machine
end

section
/-! The records of the valid tags: each commits the raw row that its filtered bytes reconstruct to above PRIOR
(O13 to O17, O21). -/

namespace Sys2Proof.Machine

/-! ### Raw rows -/

/-- The defining equation of a raw row, as bytes. -/
theorem IsRawRow.getD_eq {pred : Byte → Byte → Byte → Nat} {prior filtered row : List Byte}
    (h : IsRawRow pred prior filtered row) {x : Nat} (hx : x < filtered.length) :
    row.getD x 0#8 = BitVec.ofNat 8 ((filtered.getD x 0#8).toNat +
      pred (if 3 ≤ x then row.getD (x - 3) 0#8 else 0#8) (prior.getD x 0#8)
        (if 3 ≤ x then prior.getD (x - 3) 0#8 else 0#8)) :=
  BitVec.eq_of_toNat_eq ((h.2 x hx).trans (BitVec.toNat_ofNat _ 8).symm)

/-- One more byte goes on the right of a raw row: the bytes before it do not depend on it. -/
theorem IsRawRow.concat {pred : Byte → Byte → Byte → Nat} {prior filtered row : List Byte}
    (h : IsRawRow pred prior filtered row) (d : Byte) :
    ∃ b, IsRawRow pred prior (filtered ++ [d]) (row ++ [b]) := by
  obtain ⟨hlen, hbytes⟩ := h
  refine ⟨BitVec.ofNat 8 (d.toNat + pred
      (if 3 ≤ row.length then row.getD (row.length - 3) 0#8 else 0#8) (prior.getD row.length 0#8)
      (if 3 ≤ row.length then prior.getD (row.length - 3) 0#8 else 0#8)), by simp [hlen], ?_⟩
  intro x hx
  have hleft (b : Byte) : (if 3 ≤ x then (row ++ [b]).getD (x - 3) 0#8 else 0#8) =
      if 3 ≤ x then row.getD (x - 3) 0#8 else 0#8 := by
    split
    · rw [List.getD_append _ _ _ _ (by simp at hx; omega)]
    · rfl
  rw [hleft]
  rcases Nat.lt_or_ge x filtered.length with hlt | hge
  · rw [List.getD_append _ _ _ _ (hlen ▸ hlt), List.getD_append _ _ _ _ hlt]
    exact hbytes x hlt
  · have hlast : x = row.length := by simp at hx; omega
    subst hlast
    simp [hlen]

/-- Every filtered row has a raw row, whatever the predictor and the row above. -/
theorem exists_isRawRow (pred : Byte → Byte → Byte → Nat) (prior filtered : List Byte) :
    ∃ row, IsRawRow pred prior filtered row := by
  induction filtered using List.reverseRecOn with
  | nil => exact ⟨[], rfl, nofun⟩
  | append_singleton filtered d ih =>
    obtain ⟨row, hrow⟩ := ih
    obtain ⟨b, hb⟩ := hrow.concat d
    exact ⟨row ++ [b], hb⟩

/-! ### The record -/

/-- The byte that the push of filtered byte `n` reconstructs is raw byte `n`. -/
theorem IsRawRow.nextRawByte_eq {f : Fru} {tag : Byte} {filtered row : List Byte}
    (h : IsRawRow (lawPredictor tag) f.prior filtered row) {n : Nat} (hn : n < filtered.length) :
    nextRawByte (filtered.getD n 0#8) (midRecord f tag row n) = row.getD n 0#8 := by
  have hpixel : 4 ≤ 1 + n ↔ 3 ≤ n := by omega
  have hback : 1 + n - 4 = n - 3 := by omega
  have hleft : 3 ≤ n → (row.take n ++ f.cur.drop n).getD (n - 3) 0#8 = row.getD (n - 3) 0#8 := by
    intro h3
    have hlen := h.1
    rw [List.getD_append _ _ _ _ (by rw [List.length_take]; omega), List.getD_eq_getElem?_getD,
      List.getElem?_take_of_lt (by omega), ← List.getD_eq_getElem?_getD]
  rw [h.getD_eq hn, nextRawByte]
  simp only [midRecord, hpixel, hback, Nat.add_sub_cancel_left]
  split
  next h3 => rw [hleft h3]
  next => rfl

/-- The push of the next sample byte of a record adds the next raw byte to the row in progress. -/
theorem pushByte_midRecord {f : Fru} {tag : Byte} {filtered row : List Byte} (outcap : Nat)
    (h : IsRawRow (lawPredictor tag) f.prior filtered row) (hrun : f.state = .run) (htag : tag.toNat ≤ 4)
    (hcur : filtered.length ≤ f.cur.length) (hprior : filtered.length ≤ f.prior.length) {n : Nat}
    (hn : n < filtered.length) :
    pushByte outcap (filtered.getD n 0#8) (midRecord f tag row n) =
      completionCheck (midRecord f tag row (n + 1)) := by
  have hrow : n < row.length := h.1 ▸ hn
  have hstarted : (midRecord f tag row n).fill ≠ 0 := by simp [midRecord]
  have hcur' : (midRecord f tag row n).fill ≤ (midRecord f tag row n).cur.length := by
    simp only [midRecord, List.length_append, List.length_take, List.length_drop]
    omega
  have hprior' : (midRecord f tag row n).fill ≤ (midRecord f tag row n).prior.length := by
    simp only [midRecord]
    omega
  have hset : (row.take n ++ f.cur.drop n).set n (row.getD n 0#8) =
      row.take (n + 1) ++ f.cur.drop (n + 1) := by
    have hlen : (row.take n).length = n := List.length_take_of_le hrow.le
    rw [List.set_append_right _ _ hlen.le, hlen, Nat.sub_self, List.drop_eq_getElem_cons (by omega),
      List.set_cons_zero, List.take_succ_eq_append_getElem hrow, List.getD_eq_getElem _ _ hrow,
      List.append_assoc, List.singleton_append]
  rw [pushByte_sample_of_valid (f := midRecord f tag row n) outcap _ hrun hstarted htag hcur' hprior',
    h.nextRawByte_eq hn]
  simp only [midRecord, Nat.add_sub_cancel_left, hset, Nat.add_assoc]

/-- The pushes of the sample bytes that are left of a record complete its row. -/
theorem pushBytes_midRecord {f : Fru} {tag : Byte} {filtered row : List Byte} (outcap : Nat)
    (h : IsRawRow (lawPredictor tag) f.prior filtered row) (hrun : f.state = .run) (htag : tag.toNat ≤ 4)
    (hlen : filtered.length = rowBytes f) (hcur : rowBytes f ≤ f.cur.length)
    (hprior : rowBytes f ≤ f.prior.length) {n : Nat} (hn : n ≤ filtered.length) :
    (completionCheck (midRecord f tag row n)).bind (pushBytes outcap (filtered.drop n)) =
      completionCheck (midRecord f tag row filtered.length) := by
  induction hn using Nat.decreasingInduction with
  | self =>
    rw [List.drop_length]
    exact bind_pure (completionCheck (midRecord f tag row filtered.length))
  | of_succ n hlt ih =>
    have hincomplete : (midRecord f tag row n).fill ≠ 1 + rowBytes (midRecord f tag row n) :=
      fun he => hlt.ne (Nat.add_left_cancel (he.trans (congrArg (1 + ·) hlen.symm)))
    have hnext : filtered.drop n = filtered.getD n 0#8 :: filtered.drop (n + 1) := by
      rw [List.drop_eq_getElem_cons hlt, List.getD_eq_getElem _ _ hlt]
    rw [← ih, ← pushByte_midRecord outcap h hrun htag (hlen ▸ hcur) (hlen ▸ hprior) hlt,
      completionCheck_of_ne hincomplete, hnext]
    rfl

/-- The record of a valid tag, in every state that is ready for it. -/
theorem ReadyForRecord.pushRecord_of_isRawRow {s : State} {filtered : List Byte}
    (hready : ReadyForRecord s filtered) {tag : Byte} (htag : tag.toNat ≤ 4) {row : List Byte}
    (h : IsRawRow (lawPredictor tag) s.fru.prior filtered row) :
    pushRecord tag filtered s = .next (committed s tag row) := by
  have hpush : pushBytes s.outcap (tag :: filtered) s.fru =
      completionCheck (midRecord s.fru tag row filtered.length) := by
    rw [pushBytes, hready.pushByte_eq, tagStep_eq_midRecord s.fru tag row]
    exact pushBytes_midRecord s.outcap h hready.run htag hready.length hready.curLength hready.priorLength
      (Nat.zero_le _)
  rw [pushRecord, hpush, ← h.1,
    completionCheck_midRecord hready.run htag (h.1.trans hready.length) hready.priorLength]
  rfl

/-- Settles O13: with the predictor 0 the filtered bytes are the raw row. -/
theorem noneCommitsTheFilteredBytes : Obligations.NoneCommitsTheFilteredBytes := by
  intro s filtered hready
  have hrow : IsRawRow (lawPredictor 0x00#8) s.fru.prior filtered filtered :=
    ⟨rfl, fun x _ => (Nat.mod_eq_of_lt (filtered.getD x 0#8).isLt).symm⟩
  exact hready.pushRecord_of_isRawRow (by decide) hrow

/-- Settles O14: the law of tag 1 is the byte to the left. -/
theorem subAddsTheLeftByte : Obligations.SubAddsTheLeftByte := by
  intro s filtered hready
  obtain ⟨row, hrow⟩ := exists_isRawRow (fun a _ _ => a.toNat) s.fru.prior filtered
  exact ⟨row, hrow, hready.pushRecord_of_isRawRow (tag := 0x01#8) (by decide) hrow⟩

/-- Settles O15: the law of tag 2 is the byte above, so that the raw row is the bytewise sum with PRIOR. -/
theorem upAddsTheByteAbove : Obligations.UpAddsTheByteAbove := by
  intro s filtered hready
  have hfits : filtered.length ≤ s.fru.prior.length := hready.length ▸ hready.priorLength
  have hrow : IsRawRow (fun _ b _ => b.toNat) s.fru.prior filtered
      (List.zipWith (· + ·) filtered s.fru.prior) := by
    refine ⟨by simpa using hfits, fun x hx => ?_⟩
    have hx' : x < s.fru.prior.length := by omega
    simp [List.getD_eq_getElem?_getD, hx, hx']
  exact hready.pushRecord_of_isRawRow (tag := 0x02#8) (by decide) hrow

/-- Settles O16: the law of tag 3 is half the unreduced sum of left and above. -/
theorem avgAddsTheHalvedSum : Obligations.AvgAddsTheHalvedSum := by
  intro s filtered hready
  obtain ⟨row, hrow⟩ :=
    exists_isRawRow (fun a b _ => (a.toNat + b.toNat) / 2) s.fru.prior filtered
  exact ⟨row, hrow, hready.pushRecord_of_isRawRow (tag := 0x03#8) (by decide) hrow⟩

/-- Settles O17: the law of tag 4 is the neighbour chosen by the three distances. -/
theorem paethAddsTheNearestNeighbour : Obligations.PaethAddsTheNearestNeighbour := by
  intro s filtered hready
  obtain ⟨row, hrow⟩ := exists_isRawRow paethByDistances s.fru.prior filtered
  exact ⟨row, hrow, hready.pushRecord_of_isRawRow (tag := 0x04#8) (by decide) hrow⟩

/-- Settles O21: modulo 256, adding the predictor takes back what forward filtering subtracted, so that the
row filtered forward is a raw row of its filtered bytes. -/
theorem forwardFilteringIsReversed : Obligations.ForwardFilteringIsReversed := by
  intro s tag filtered raw hready htag hlen hforward
  have hrow : IsRawRow (lawPredictor tag) s.fru.prior filtered raw := by
    refine ⟨hlen, fun x hx => ?_⟩
    have hbyte := hforward x (hlen ▸ hx)
    have hraw := (raw.getD x 0#8).isLt
    omega
  rw [exec_decodeTag]
  exact hready.pushRecord_of_isRawRow htag hrow

end Sys2Proof.Machine
end

section
/-! A run over an image without invalid records (O20): the rows are committed one after the other, each the prior
row of the next (40_filter_reconstruction.md R83). -/

namespace Sys2Proof.Machine

/-! ### The rows of an image -/

/-- A raw row depends on the prior row only as far as it is long. -/
theorem IsRawRow.of_append {pred : Byte → Byte → Byte → Nat} {prior rest filtered row : List Byte}
    (hlen : filtered.length ≤ prior.length) (h : IsRawRow pred (prior ++ rest) filtered row) :
    IsRawRow pred prior filtered row := by
  obtain ⟨hrow, hbytes⟩ := h
  refine ⟨hrow, fun x hx => ?_⟩
  rw [hbytes x hx, List.getD_append _ _ _ _ (by omega), List.getD_append _ _ _ _ (by omega)]

/-- The raw rows of the records `recs`, the first above `first`, each other above the one before it. -/
def AreRawRows (first : List Byte) (recs : List (Byte × List Byte)) (rows : List (List Byte)) : Prop :=
  rows.length = recs.length ∧
  ∀ (j : Nat) (r : Byte × List Byte), recs[j]? = some r →
    IsRawRow (lawPredictor r.1) (if j = 0 then first else rows.getD (j - 1) []) r.2 (rows.getD j [])

theorem areRawRows_nil (first : List Byte) : AreRawRows first [] [] := ⟨rfl, nofun⟩

theorem AreRawRows.cons {first row : List Byte} {r : Byte × List Byte} {recs : List (Byte × List Byte)}
    {rows : List (List Byte)} (h : AreRawRows row recs rows)
    (hrow : IsRawRow (lawPredictor r.1) first r.2 row) :
    AreRawRows first (r :: recs) (row :: rows) := by
  obtain ⟨hlen, hrows⟩ := h
  refine ⟨congrArg (· + 1) hlen, fun j r' hr' => ?_⟩
  match j with
  | 0 => cases hr'; exact hrow
  | 1 => exact hrows 0 r' hr'
  | j + 2 => exact hrows (j + 1) r' hr'

/-! ### The run -/

/-- The records as the host's next inputs. -/
def recordInputs (recs : List (Byte × List Byte)) : List HostInput :=
  recs.map fun r => .code (.record (r.1 :: r.2))

/-- The FRU is at the record boundary of a run in which `todo` rows are still to come, no record was skipped,
PRIOR begins with the row `prev`, and there is room for all rows to come. -/
structure AtRow (s : State) (prev : List Byte) (todo : Nat) : Prop where
  state : s.fru.state = if todo = 0 then .done else .run
  boundary : s.fru.fill = 0
  rows : s.fru.row.toNat + todo = s.fru.height.toNat
  rowsOut : s.fru.rowsOut = s.fru.row
  noSkip : s.fru.skipped = false
  curLength : rowBytes s.fru ≤ s.fru.cur.length
  prevLength : prev.length = rowBytes s.fru
  prior : prev <+: s.fru.prior
  room : s.fru.outq.length + todo * rowBytes s.fru ≤ s.outcap

theorem AtRow.readyForRecord {s : State} {prev : List Byte} {todo : Nat} (h : AtRow s prev (todo + 1))
    {filtered : List Byte} (hlen : filtered.length = rowBytes s.fru) : ReadyForRecord s filtered where
  run := h.state
  boundary := h.boundary
  length := hlen
  room := by
    have := h.room
    rw [Nat.succ_mul] at this
    show s.fru.outq.length + rowBytes s.fru ≤ s.outcap
    omega
  curLength := h.curLength
  priorLength := h.prevLength.ge.trans h.prior.length_le

/-- The commit of a row leaves the FRU at the next row, or at the end of the image
(40_filter_reconstruction.md R77, R82). -/
theorem AtRow.of_committed {s : State} {prev row : List Byte} {todo : Nat} (h : AtRow s prev (todo + 1))
    (tag : Byte) (hlen : row.length = rowBytes s.fru) : AtRow (committed s tag row) row todo := by
  have hrows := h.rows
  have hmore : s.fru.row.toNat < s.fru.height.toNat := by omega
  have hnext := toNat_succ_of_lt hmore
  have hlast : s.fru.row + 1#32 = s.fru.height ↔ todo = 0 := by
    rw [← BitVec.toNat_inj]
    omega
  exact {
    state := by simp only [committed, hlast]
    boundary := rfl
    rows := by simp only [committed]; omega
    rowsOut := congrArg (· + 1#32) h.rowsOut
    noSkip := h.noSkip
    curLength := by
      show rowBytes s.fru ≤ (row ++ s.fru.cur.drop row.length).length
      rw [List.length_append]
      omega
    prevLength := hlen
    prior := List.prefix_append row _
    room := by
      have := h.room
      rw [Nat.succ_mul] at this
      show (s.fru.outq ++ row).length + todo * rowBytes s.fru ≤ s.outcap
      rw [List.length_append]
      omega }

/-- Taking the next input off the host's list does not move the position. -/
theorem AtRow.of_beginTransaction {s : State} {prev : List Byte} {todo : Nat} (h : AtRow s prev todo)
    (rest : List HostInput) : AtRow (beginTransaction rest s) prev todo :=
  { h with }

/-- A step over a valid record commits a raw row above the row before it. -/
theorem AtRow.step_commits {s : State} {prev : List Byte} {todo : Nat} (h : AtRow s prev (todo + 1))
    {r : Byte × List Byte} {rest : List HostInput}
    (hin : s.input = .code (.record (r.1 :: r.2)) :: rest) (htag : r.1.toNat ≤ 4)
    (hlen : r.2.length = rowBytes s.fru) :
    ∃ row, IsRawRow (lawPredictor r.1) prev r.2 row ∧ row.length = rowBytes s.fru ∧
      step s = .next (committed (beginTransaction rest s) r.1 row) := by
  have hready : ReadyForRecord (beginTransaction rest s) r.2 :=
    (h.of_beginTransaction rest).readyForRecord hlen
  obtain ⟨row, hrow⟩ := exists_isRawRow (lawPredictor r.1) s.fru.prior r.2
  obtain ⟨below, hprior⟩ := h.prior
  refine ⟨row, ?_, hrow.1.trans hlen, ?_⟩
  · rw [← hprior] at hrow
    exact hrow.of_append (hlen.trans h.prevLength.symm).le
  · rw [step_record hin hlen]
    exact hready.pushRecord_of_isRawRow htag hrow

/-- A run over the records of the rows still to come outputs their raw rows. -/
theorem AtRow.run_records {recs : List (Byte × List Byte)} {s : State} {prev : List Byte}
    (h : AtRow s prev recs.length) (hin : s.input = recordInputs recs)
    (hvalid : ∀ r ∈ recs, r.1.toNat ≤ 4 ∧ r.2.length = rowBytes s.fru) :
    ∃ rows t last, Host.Core.run core recs.length s = .next t ∧ AtRow t last 0 ∧
      t.fru.height = s.fru.height ∧ t.fru.outq = s.fru.outq ++ rows.flatten ∧ AreRawRows prev recs rows := by
  induction recs generalizing s prev with
  | nil => exact ⟨[], s, prev, rfl, h, rfl, by simp, areRawRows_nil prev⟩
  | cons r recs ih =>
    obtain ⟨⟨htag, hlen⟩, hrest⟩ := List.forall_mem_cons.mp hvalid
    obtain ⟨row, hrow, hrowLen, hstep⟩ := h.step_commits hin htag hlen
    obtain ⟨rows, t, last, hrun, hend, hheight, houtq, hrows⟩ :=
      ih ((h.of_beginTransaction (recordInputs recs)).of_committed r.1 hrowLen) rfl hrest
    refine ⟨row :: rows, t, last, (run_succ_of_next hstep _).trans hrun, hend, hheight, ?_, hrows.cons hrow⟩
    rw [houtq, List.flatten_cons, ← List.append_assoc]
    rfl

/-- START on a legal width leaves RUN at once only where no row is declared (42_host_transactions.md R103). -/
theorem startRun_of_width_le {maxw : Nat} {f : Fru} (h : f.width.toNat ≤ maxw) :
    startRun maxw f =
      { clearRun maxw f with state := if 0#32 = f.height then .done else .run } := by
  rw [startRun_eq, if_neg (Nat.not_lt.mpr h), endOfImage_eq]
  rfl

/-- START on a legal configuration stands at the first row, above zeros (42_host_transactions.md R103). -/
theorem atRow_startRun {s : State} (hwidth : s.fru.width.toNat ≤ s.maxw)
    (hcur : s.fru.cur.length = 3 * s.maxw)
    (hroom : s.fru.height.toNat * rowBytes s.fru ≤ s.outcap) :
    AtRow { s with fru := startRun s.maxw s.fru } (List.replicate (rowBytes s.fru) 0#8)
      s.fru.height.toNat := by
  have hbytes : rowBytes s.fru ≤ 3 * s.maxw := Nat.mul_le_mul_left 3 hwidth
  have hnone : 0#32 = s.fru.height ↔ s.fru.height.toNat = 0 := by
    rw [← BitVec.toNat_inj]
    exact eq_comm
  rw [startRun_of_width_le hwidth]
  exact {
    state := by simp only [hnone]
    boundary := rfl
    rows := Nat.zero_add _
    rowsOut := rfl
    noSkip := rfl
    curLength := hbytes.trans hcur.ge
    prevLength := List.length_replicate
    prior := ⟨List.replicate (3 * s.maxw - rowBytes s.fru) 0#8, by
      rw [List.replicate_append_replicate, Nat.add_sub_cancel' hbytes]
      rfl⟩
    room := (Nat.zero_add _).trans_le hroom }

/-- The START that comes next is executed (42_host_transactions.md R103). -/
theorem step_frStart {s : State} {rest : List HostInput}
    (hin : s.input = .code (encode .frStart) :: rest) :
    step s = .next { beginTransaction rest s with fru := startRun s.maxw s.fru } := by
  have hfetch : fetched s (encode .frStart) = .ok .frStart := decodeOfEncode .frStart rfl
  unfold step
  rw [hin]
  dsimp only
  rw [hfetch]
  rfl

/-- Settles O20: START stands at the first row, above zeros, and the records commit their rows one by one. -/
theorem imageIsTheFoldOverItsRows : Obligations.ImageIsTheFoldOverItsRows := by
  intro s recs hwidth hcur hheight hroom hvalid
  have hstarted := startRun_of_width_le hwidth
  have hfirst : AtRow { beginTransaction (recordInputs recs) s with fru := startRun s.maxw s.fru }
      (List.replicate (rowBytes s.fru) 0#8) recs.length :=
    hheight ▸ atRow_startRun (s := beginTransaction (recordInputs recs) s) hwidth hcur (hheight ▸ hroom)
  obtain ⟨rows, t, last, hrun, hend, hkept, houtq, hlen, hrows⟩ :=
    hfirst.run_records rfl (by rw [hstarted]; exact hvalid)
  rw [hstarted] at hkept houtq
  have hrow : t.fru.row = s.fru.height := (BitVec.eq_of_toNat_eq hend.rows).trans hkept
  refine ⟨rows, t, ?_, hend.state, hrow, hend.rowsOut.trans hrow, hend.noSkip, houtq, hlen, hrows⟩
  rw [Nat.add_comm]
  exact (run_succ_of_next (step_frStart rfl) _).trans hrun

end Sys2Proof.Machine
end

section
/-! The byte function of the CRC-32 unit: linearity over XOR, and from it the table form (O40). -/

namespace Sys2Proof.Machine

/-- The choice of 41_crc32.md R91 as one XOR. -/
theorem crcShift_eq_xor (c : Word) :
    crcShift c = (c >>> 1) ^^^ (if c.getLsbD 0 then crcPoly else 0#32) := by
  unfold crcShift
  split
  · rfl
  · exact BitVec.xor_zero.symm

theorem crcShift_xor (a b : Word) : crcShift (a ^^^ b) = crcShift a ^^^ crcShift b := by
  have hpoly : (if (a ^^^ b).getLsbD 0 then crcPoly else 0#32) =
      (if a.getLsbD 0 then crcPoly else 0#32) ^^^ (if b.getLsbD 0 then crcPoly else 0#32) := by
    rw [BitVec.getLsbD_xor]
    cases a.getLsbD 0 <;> cases b.getLsbD 0 <;> rfl
  simp only [crcShift_eq_xor, hpoly, BitVec.ushiftRight_xor_distrib]
  ac_rfl

/-- The iterations of 41_crc32.md R91 are linear over XOR. -/
theorem crcShifts_xor (n : Nat) (a b : Word) :
    crcShifts n (a ^^^ b) = crcShifts n a ^^^ crcShifts n b := by
  induction n generalizing a b with
  | zero => rfl
  | succ n ih => exact (congrArg (crcShifts n) (crcShift_xor a b)).trans (ih _ _)

/-- Where the bits shifted out are 0, the polynomial never enters. -/
theorem crcShifts_of_low_zero (n : Nat) {c : Word} (h : ∀ i < n, c.getLsbD i = false) :
    crcShifts n c = c >>> n := by
  induction n generalizing c with
  | zero => exact (BitVec.ushiftRight_zero c).symm
  | succ n ih =>
    have hshift : crcShift c = c >>> 1 := if_neg (by rw [h 0 (Nat.succ_pos n)]; nofun)
    have hlow : ∀ i < n, (c >>> 1).getLsbD i = false := fun i hi => by
      rw [BitVec.getLsbD_ushiftRight]
      exact h (1 + i) (by omega)
    rw [crcShifts, hshift, ih hlow, ← BitVec.shiftRight_add, Nat.add_comm]

/-- A byte has no bits beyond its eight. -/
theorem byte_setWidth_ushiftRight (d : Byte) : d.setWidth 32 >>> 8 = 0#32 := by
  revert d
  decide

/-- Eight iterations split a word into its low byte `n`, which is looked up, and the rest, which is shifted. -/
theorem crcShifts_eight {x : Word} {n : Byte} (hn : ∀ i < 8, n.getLsbD i = x.getLsbD i) :
    crcShifts 8 x = crcByte 0#32 n ^^^ (x >>> 8) := by
  have hlow : ∀ i < 8, (n.setWidth 32 ^^^ x).getLsbD i = false := fun i hi => by
    simp [hn i hi, show i < 32 by omega]
  have hhigh : (n.setWidth 32 ^^^ x) >>> 8 = x >>> 8 := by
    rw [BitVec.ushiftRight_xor_distrib, byte_setWidth_ushiftRight, BitVec.zero_xor]
  calc crcShifts 8 x
      = crcShifts 8 (n.setWidth 32 ^^^ (n.setWidth 32 ^^^ x)) := by
        rw [← BitVec.xor_assoc, BitVec.xor_self, BitVec.zero_xor]
    _ = crcShifts 8 (n.setWidth 32) ^^^ (x >>> 8) := by
        rw [crcShifts_xor, crcShifts_of_low_zero 8 hlow, hhigh]
    _ = crcByte 0#32 n ^^^ (x >>> 8) := by rw [crcByte, BitVec.zero_xor]

/-- The table form of 41_crc32.md R93. -/
theorem crcByte_eq_table (c : Word) (d : Byte) :
    crcByte c d = crcByte 0#32 ((c ^^^ d.setWidth 32).extractLsb' 0 8) ^^^ (c >>> 8) := by
  have hhigh : (c ^^^ d.setWidth 32) >>> 8 = c >>> 8 := by
    rw [BitVec.ushiftRight_xor_distrib, byte_setWidth_ushiftRight, BitVec.xor_zero]
  rw [← hhigh]
  exact crcShifts_eight fun i hi => by simp [hi]

/-- Settles O40: the table form is the linearity of the byte function, the entries are computed. -/
theorem tableFormOfTheByteFunction : Obligations.TableFormOfTheByteFunction :=
  ⟨crcByte_eq_table, by decide, by decide, by decide, by decide, by decide⟩

end Sys2Proof.Machine
end

section
/-! The transactions of the CRC-32 unit, one by one: what their words decode to and what they do (O38, O39, O42),
and which steps clear CRC_CMDERR (O43). -/

namespace Sys2Proof.Machine

/-! ### INIT and the pushes -/

/-- Settles O38: the word is decided, the rest is the meaning of CRC.INIT. -/
theorem initBeginsAMessage : Obligations.InitBeginsAMessage :=
  fun _ => ⟨by decide, rfl⟩

/-- The table index of a push (41_crc32.md R93), from the bits 7:0 of ACC and of the data (R92). -/
theorem tableIndex_eq (acc data : Word) :
    (acc ^^^ (pushedByte data).setWidth 32).extractLsb' 0 8 =
      BitVec.ofNat 8 (acc.toNat % 256 ^^^ data.toNat % 256) := by
  have hxor := Nat.xor_mod_two_pow (a := acc.toNat) (b := data.toNat % 256) (n := 8)
  have hfits : data.toNat % 256 % 4294967296 = data.toNat % 256 := by omega
  apply BitVec.eq_of_toNat_eq
  simpa [pushedByte, hfits] using hxor

/-- Settles O39: the push absorbs its byte by the bit-serial function, which is the table form. -/
theorem crcPushAbsorbsAByte : Obligations.CrcPushAbsorbsAByte := by
  intro s data
  refine ⟨decodeWord_encodeTx true 17#6 data, ?_⟩
  rw [← tableIndex_eq, ← crcByte_eq_table]
  rfl

/-! ### EXPECT and the reads -/

/-- The final XOR of 41_crc32.md R90 complements ACC. -/
theorem crcValue_eq_not (c : Crc) : crcValue c = ~~~ c.acc :=
  BitVec.xor_allOnes

/-- The two bits of the CRC_STATUS response as the numbers they stand for (41_crc32.md R96). -/
theorem crcStatus_eq_add (c : Crc) :
    crcStatus c =
      (if c.cmderr then 2#32 else 0#32) + (if ~~~ c.acc = c.expect then 1#32 else 0#32) := by
  unfold crcStatus crcMatch
  rw [crcValue_eq_not]
  cases c.cmderr <;> by_cases hmatch : ~~~ c.acc = c.expect <;> simp [hmatch]

/-- Settles O42: the words are decided, and the two computed responses are the ones above. -/
theorem expectAndMatch : Obligations.ExpectAndMatch := by
  intro s v
  refine ⟨⟨decodeWord_encodeTx true 19#6 v, by decide, by decide, by decide⟩, rfl, rfl, ?_, ?_⟩
  · rw [← crcValue_eq_not]
    rfl
  · rw [← crcStatus_eq_add]
    rfl

/-! ### CRC_CMDERR -/

/-- Any code of CRC_CMD but 1 is reserved (30_encoding.md R57). -/
theorem decodeWord_crcCmdReserved {v : Word} (h : v.toNat ≠ 1) :
    decodeWord (encodeTx true 16#6 v) = .crcCmdReserved v := by
  have hv : v ≠ 1#32 := fun he => h (by rw [he]; rfl)
  exact (decodeWord_encodeTx true 16#6 v).trans (if_neg hv)

/-- No instruction but CRC.INIT clears CRC_CMDERR (41_crc32.md R98). -/
theorem exec_keeps_crc_cmderr {i : Instr} (hi : i ≠ .crcInit) {s t : State} (h : exec i s = .next t)
    (hs : s.crc.cmderr = true) : t.crc.cmderr = true := by
  cases hcrc : isCrc i with
  | false =>
    obtain ⟨hkept, _⟩ := (theUnitsShareNoState i s t h).1 hcrc s.crc
    rw [hkept, hs]
  | true =>
    cases i
    case crcInit => exact absurd rfl hi
    case crcCmdReserved code => cases h; rfl
    case crcPush data => cases h; exact hs
    case rdCrcValue => cases h; exact hs
    case wrCrcExpect data => cases h; exact hs
    case rdCrcExpect => cases h; exact hs
    case rdCrcStatus => cases h; exact hs
    all_goals cases hcrc

/-- What a step can do, with the input it does it for (42_host_transactions.md R100). -/
theorem step_next_of_input {s t : State} (h : step s = .next t) :
    (s.input = [] ∧ t = s) ∨
    (∃ rest, s.input = .hardwareReset :: rest ∧ t = hardwareReset rest s) ∨
    (∃ c rest i, s.input = .code c :: rest ∧ decode s.fru.width.toNat c = .ok i ∧
      exec i (beginTransaction rest s) = .next t) := by
  unfold step at h
  split at h
  next hin => exact .inl ⟨hin, (Host.Outcome.next.inj h).symm⟩
  next rest hin => exact .inr (.inl ⟨rest, hin, (Host.Outcome.next.inj h).symm⟩)
  next c rest hin =>
    split at h
    next i hi => exact .inr (.inr ⟨c, rest, i, hin, hi, h⟩)
    next => cases h

/-- A step clears CRC_CMDERR for a hardware reset or for CRC.INIT only (41_crc32.md R98). -/
theorem input_of_step_clears_cmderr {s t : State} (h : step s = .next t) (hs : s.crc.cmderr = true)
    (ht : t.crc.cmderr = false) :
    (∃ rest, s.input = .hardwareReset :: rest) ∨
    (∃ c rest, s.input = .code c :: rest ∧ decode s.fru.width.toNat c = .ok .crcInit) := by
  rcases step_next_of_input h with ⟨_, rfl⟩ | ⟨rest, hin, _⟩ | ⟨c, rest, i, hin, hi, he⟩
  · exact absurd (hs.symm.trans ht) nofun
  · exact .inl ⟨rest, hin⟩
  · by_cases hinit : i = .crcInit
    · exact .inr ⟨c, rest, hin, hinit ▸ hi⟩
    · have hkept := exec_keeps_crc_cmderr (s := beginTransaction rest s) hinit he hs
      exact absurd (hkept.symm.trans ht) nofun

/-- Settles O43: the reserved command sets the flag, INIT and hardware reset clear it, and no other input does. -/
theorem reservedCrcCommandSetsCmderr : Obligations.ReservedCrcCommandSetsCmderr := by
  refine ⟨fun s v hv => ⟨decodeWord_crcCmdReserved hv, rfl⟩, fun s => ⟨_, rfl, rfl⟩,
    fun s rest hin => ⟨hardwareReset rest s, ?_, rfl⟩, fun s t => input_of_step_clears_cmderr⟩
  unfold step
  rw [hin]

end Sys2Proof.Machine
end

section
/-! The CRC of a message, from INIT through its pushes to the read of CRC_VALUE (O41). -/

namespace Sys2Proof.Machine

/-- The transaction that comes next is executed (42_host_transactions.md R100). -/
theorem step_transaction {i : Instr} {w : TxWord} (hi : i.wellFormed = true) (hw : encode i = .word w)
    {s : State} {rest : List HostInput} (hin : s.input = .code (encode i) :: rest) :
    step s = exec i (beginTransaction rest s) := by
  have hfetch : fetched s (.word w) = .ok i := congrArg Except.ok (decodeWord_of_encode hi hw)
  unfold step
  rw [hin, hw]
  dsimp only
  rw [hfetch]

/-- The state after INIT (41_crc32.md R94). -/
def messageBegun (s : State) : State :=
  { s with crc := { s.crc with acc := 0xFFFFFFFF#32, cmderr := false } }

/-- The state with the bytes `m` absorbed into ACC (41_crc32.md R92). -/
def absorbed (m : List Byte) (s : State) : State :=
  { s with crc := { s.crc with acc := m.foldl crcByte s.crc.acc } }

/-- The CRC.INIT that comes next begins a message. -/
theorem step_crcInit {s : State} {rest : List HostInput}
    (hin : s.input = .code (encode .crcInit) :: rest) :
    step s = .next (beginTransaction rest (messageBegun s)) :=
  step_transaction (i := .crcInit) rfl rfl hin

/-- The read of CRC_VALUE that comes next is answered. -/
theorem step_rdCrcValue {s : State} {rest : List HostInput}
    (hin : s.input = .code (encode .rdCrcValue) :: rest) :
    step s = .next { beginTransaction rest s with resp := some (crcValue s.crc) } :=
  step_transaction (i := .rdCrcValue) rfl rfl hin

/-- The CRC.PUSH that comes next absorbs its byte. -/
theorem step_crcPush {s : State} {b : Byte} {rest : List HostInput}
    (hin : s.input = .code (encode (.crcPush (b.setWidth 32))) :: rest) :
    step s = .next (beginTransaction rest (absorbed [b] s)) := by
  rw [step_transaction rfl rfl hin]
  show execCrcPush _ _ = _
  rw [execCrcPush, pushedByte_setWidth]
  rfl

/-- The run of one CRC.PUSH per byte absorbs the message. -/
theorem run_crcPushes (m : List Byte) (rest : List HostInput) (k : Nat) (s : State) :
    Host.Core.run core (m.length + k) (beginTransaction (crcPushes m ++ rest) s) =
      Host.Core.run core k (beginTransaction rest (absorbed m s)) := by
  induction m generalizing s with
  | nil => rw [List.length_nil, Nat.zero_add]; rfl
  | cons b m ih =>
    have hstep : step (beginTransaction (crcPushes (b :: m) ++ rest) s) =
        .next (beginTransaction (crcPushes m ++ rest) (absorbed [b] s)) := step_crcPush rfl
    rw [List.length_cons, Nat.add_right_comm, run_succ_of_next hstep]
    exact ih (absorbed [b] s)

/-- Settles O41: INIT sets ACC to the initial value, the pushes absorb the message, the read complements ACC. -/
theorem valueIsTheCrcOfTheMessage : Obligations.ValueIsTheCrcOfTheMessage := by
  intro s m rest
  have hpushes := run_crcPushes m (.code (encode .rdCrcValue) :: rest) 1 (messageBegun s)
  exact (run_succ_of_next (step_crcInit rfl) _).trans
    (hpushes.trans (run_succ_of_next (step_rdCrcValue rfl) 0))

end Sys2Proof.Machine
end

section
/-! Under the invariants every instruction completes (O11): a row of a legal width lies within the line buffers
(20_memory.md R49), so that no push meets the model's stop. -/

namespace Sys2Proof.Machine

/-- The completion check of a record in progress completes (40_filter_reconstruction.md R77). -/
theorem InRecord.exists_completionCheck {s : State} {f : Fru} (h : InRecord s f) :
    ∃ g, completionCheck f = .ok g := by
  have hrow : rowBytes f ≤ 3 * s.maxw := Nat.mul_le_mul_left 3 h.width
  by_cases hfill : f.fill = 1 + rowBytes f
  · rcases Nat.lt_or_ge 4 f.ft.toNat with hft | hft
    · exact ⟨_, completionCheck_of_invalid hfill hft⟩
    · rw [completionCheck_of_valid hfill hft, commitRow_eq (h.cur ▸ hrow) (h.prior ▸ hrow)]
      exact ⟨_, rfl⟩
  · exact ⟨f, completionCheck_of_ne hfill⟩

/-- The sample step completes: FILL does not pass the row, nor the row the buffers (20_memory.md R49). -/
theorem Inv.exists_sampleStep {s : State} (h : Inv s) (hrun : s.fru.state = .run)
    (hstarted : s.fru.fill ≠ 0) (d : Byte) : ∃ m, sampleStep d s.fru = .ok m := by
  rcases Nat.lt_or_ge 4 s.fru.ft.toNat with hft | hft
  · exact ⟨_, sampleStep_of_invalid d hft⟩
  · obtain ⟨t, ht⟩ := exists_filterOfTag hft
    have hfill := h.runFill hrun
    have hwidth := h.runWidth hrun
    have hin : inLineBuffers s.fru (s.fru.fill - 1) = true :=
      (inLineBuffers_iff _ _).mpr ⟨by rw [h.curLength]; omega, by rw [h.priorLength]; omega⟩
    exact ⟨_, (sampleStep_of_filter d ht).trans (if_pos hin)⟩

/-- The push of a byte completes in RUN: without room, at a tag and at a sample byte
(42_host_transactions.md R108). -/
theorem Inv.exists_pushInRun {s : State} (h : Inv s) (hrun : s.fru.state = .run) (d : Byte) :
    ∃ g, pushInRun s.outcap d s.fru = .ok g := by
  unfold pushInRun
  split
  next =>
    split
    next hroom => exact (h.inRecord_tagStep d hrun ((hasRoom_iff _ _).mp hroom)).exists_completionCheck
    next => exact ⟨_, rfl⟩
  next hstarted =>
    obtain ⟨m, hm⟩ := h.exists_sampleStep hrun hstarted d
    rw [hm]
    exact (h.inRecord_sampleStep hrun hstarted hm).exists_completionCheck

/-- The push of a byte completes in every STATE. -/
theorem Inv.exists_pushByte {s : State} (h : Inv s) (d : Byte) :
    ∃ g, pushByte s.outcap d s.fru = .ok g := by
  cases hs : s.fru.state with
  | idle => exact ⟨_, pushByte_of_dropped _ d (.inl hs)⟩
  | fault => exact ⟨_, pushByte_of_dropped _ d (.inr hs)⟩
  | done => exact ⟨_, pushByte_of_done _ d hs⟩
  | run => rw [pushByte_of_run _ d hs]; exact h.exists_pushInRun hs d

/-- The pushes of any bytes complete, since each push keeps the invariants. -/
theorem Inv.exists_pushBytes {s : State} (h : Inv s) (ds : List Byte) :
    ∃ g, pushBytes s.outcap ds s.fru = .ok g := by
  induction ds generalizing s with
  | nil => exact ⟨_, rfl⟩
  | cons d ds ih =>
    obtain ⟨m, hm⟩ := h.exists_pushByte d
    rw [pushBytes, hm]
    exact ih (h.of_pushByte hm)

/-- An instruction that pushes nothing completes in every state, without the invariants. -/
theorem exec_next_of_not_input {i : Instr} (hi : isInput i = false) (s : State) :
    ∃ t, exec i s = .next t := by
  cases i
  case frPop => exact ⟨_, exec_frPop s⟩
  all_goals first | exact ⟨_, rfl⟩ | cases hi

/-- Settles O11: an instruction of the input stream is the push of some bytes, which complete under the
invariants, and the others have no stop. -/
theorem everyInstructionCompletes : Obligations.EveryInstructionCompletes := by
  intro s i h
  cases hi : isInput i with
  | true =>
    obtain ⟨ds, hds⟩ := exec_input hi
    obtain ⟨g, hg⟩ := h.exists_pushBytes ds
    exact ⟨{ s with fru := g }, by rw [hds, hg]; rfl⟩
  | false => exact exec_next_of_not_input hi s

end Sys2Proof.Machine
end

section
/-! The step on a code, and the host's writes to the FRU: the commands (O28 to O31), the configuration (O32) and
the pushes outside RUN (O22). -/

namespace Sys2Proof.Machine

/-- Settles O5: `fetched` is `decode` at FR_WIDTH, and `beginTransaction` takes the code off the list. -/
theorem stepRunsTheDecodedInstruction : Obligations.StepRunsTheDecodedInstruction := by
  intro s c rest i hin hi
  have hfetch : fetched s c = .ok i := hi
  unfold step
  rw [hin]
  dsimp only
  rw [hfetch]
  rfl

/-! ### Commands -/

/-- START (42_host_transactions.md R103) as one update of the fields, with the width checked before the
height. -/
theorem startRun_eq_update (maxw : Nat) (f : Fru) :
    startRun maxw f =
      { clearRun maxw f with
        cause := if f.width.toNat ≤ maxw then .none else .configError
        state :=
          if f.width.toNat ≤ maxw then (if f.height.toNat = 0 then .done else .run) else .fault } := by
  by_cases hw : f.width.toNat ≤ maxw
  · have hnone : 0#32 = f.height ↔ f.height.toNat = 0 := by
      rw [← BitVec.toNat_inj]
      exact eq_comm
    simp only [startRun_of_width_le hw, hw, if_true, hnone]
    rfl
  · rw [startRun_eq, if_pos (Nat.lt_of_not_le hw), if_neg hw, if_neg hw]
    rfl

/-- Settles O28: the word is decided, and START puts `startRun` of the FRU in its place. -/
theorem startBeginsARun : Obligations.StartBeginsARun := by
  intro s
  refine ⟨by decide, ?_⟩
  show Host.Outcome.next { s with fru := startRun s.maxw s.fru } = _
  rw [startRun_eq_update]
  rfl

/-- Settles O29: the two branches of EOS. -/
theorem eosReportsTruncatedDataInRun : Obligations.EosReportsTruncatedDataInRun := by
  intro s
  refine ⟨by decide, fun hrun => ?_, fun hrun => ?_⟩
  · rw [exec_frEos, if_pos hrun]
    rfl
  · rw [exec_frEos, if_neg hrun]

/-- Settles O30: the line buffers are those of the reset with the current number, and have the size of any
reset's. -/
theorem resetCommandTakesTheFruAlone : Obligations.ResetCommandTakesTheFruAlone :=
  fun s => ⟨(Fru.reset s.draw s.maxw).cur, (Fru.reset s.draw s.maxw).prior, s.draw + 1, by decide,
    reset_cur_length s.draw s.maxw, reset_prior_length s.draw s.maxw, rfl⟩

/-- Any code of FR_CMD but 1, 2 and 3 is reserved (30_encoding.md R57). -/
theorem decodeWord_frCmdReserved {v : Word} (h1 : v.toNat ≠ 1) (h2 : v.toNat ≠ 2) (h3 : v.toNat ≠ 3) :
    decodeWord (encodeTx true 0#6 v) = .frCmdReserved v := by
  have hcode : ∀ k : Word, v.toNat ≠ k.toNat → v ≠ k := fun k hk he => hk (congrArg BitVec.toNat he)
  rw [decodeWord_encodeTx]
  show decodeFrCmd v = _
  rw [decodeFrCmd, if_neg (hcode 1#32 h1), if_neg (hcode 2#32 h2), if_neg (hcode 3#32 h3)]

/-- Settles O31: the word is that of a reserved code, whose meaning is to set CMDERR. -/
theorem reservedFruCommandSetsCmderr : Obligations.ReservedFruCommandSetsCmderr :=
  fun _ _ h1 h2 h3 => ⟨decodeWord_frCmdReserved h1 h2 h3, rfl⟩

/-! ### Configuration and pushes -/

/-- Settles O32: the three writes are one operation, with the two branches of STATE; bit 0 is the parity of the
value. -/
theorem configurationWritesStoreOutsideRun : Obligations.ConfigurationWritesStoreOutsideRun := by
  intro s v
  have hbit : v.getLsbD 0 = decide (v.toNat % 2 = 1) := Nat.testBit_zero v.toNat
  refine ⟨⟨decodeWord_encodeTx true 1#6 v, decodeWord_encodeTx true 2#6 v, decodeWord_encodeTx true 3#6 v⟩,
    fun hrun => ?_, fun hrun => ?_⟩
  · rw [exec_wrFrCfg, exec_wrFrWidth, exec_wrFrHeight, if_neg hrun, if_neg hrun, if_neg hrun, hbit]
    exact ⟨rfl, rfl, rfl⟩
  · rw [exec_wrFrCfg, exec_wrFrWidth, exec_wrFrHeight, if_pos hrun, if_pos hrun, if_pos hrun]
    exact ⟨rfl, rfl, rfl⟩

/-- Settles O22: the push of the byte in the states other than RUN. -/
theorem pushOutsideRunIsDropped : Obligations.PushOutsideRunIsDropped := by
  intro s data
  refine ⟨decodeWord_encodeTx true 7#6 data, fun hs => ?_, fun hs => ?_⟩
  · rw [exec_frPush, pushByte_of_dropped _ _ hs]
    rfl
  · rw [exec_frPush, pushByte_of_done _ _ hs]
    rfl

end Sys2Proof.Machine
end

section
/-! The host's reads of the FRU: FR.POP (O33), FR_STATUS (O34), the other registers (O35), the numbers that select
nothing (O36), and the frame of every read but FR.POP (O53). -/

namespace Sys2Proof.Machine

/-! ### FR.POP -/

/-- The response of a pop that delivers, as a sum (42_host_transactions.md R109). -/
theorem doutValid_eq_add (b : Byte) : doutValid b = 0x80000000#32 + b.setWidth 32 := by
  revert b
  decide

/-- Settles O33: the two shapes of OUTQ. -/
theorem popDeliversTheHead : Obligations.PopDeliversTheHead := by
  intro s
  refine ⟨by decide, fun hempty => ?_, fun b q hhead => ?_⟩
  · have htail : s.fru.outq.tail = s.fru.outq := by rw [hempty]; rfl
    have hhead : s.fru.outq.head? = none := by rw [hempty]; rfl
    rw [exec_frPop, htail, hhead]
    rfl
  · rw [exec_frPop, hhead, ← doutValid_eq_add]
    rfl

/-! ### FR_STATUS -/

/-- The high part of a concatenation as a number. -/
theorem append_toNat_div {m n : Nat} (x : BitVec m) (y : BitVec n) :
    (x ++ y).toNat / 2 ^ n = x.toNat := by
  rw [BitVec.toNat_append, ← Nat.shiftLeft_add_eq_or_of_lt y.isLt, Nat.shiftLeft_eq,
    Nat.mul_comm, Nat.mul_add_div (Nat.two_pow_pos n), Nat.div_eq_of_lt y.isLt, Nat.add_zero]

/-- Bits 1:0 of the FR_STATUS response (42_host_transactions.md R113). -/
theorem frStatus_toNat_mod (outcap : Nat) (f : Fru) :
    (frStatus outcap f).toNat % 4 = (stateCode f.state).toNat := by
  have hlow : (frStatus outcap f).setWidth 2 = stateCode f.state := BitVec.setWidth_append_eq_right
  rw [← hlow, BitVec.toNat_setWidth]

/-- The bits of the FR_STATUS response above the flags (42_host_transactions.md R113). -/
theorem frStatus_toNat_div (outcap : Nat) (f : Fru) :
    (frStatus outcap f).toNat / 256 = (causeCode f.cause).toNat := by
  have hparts : 256 = 2 ^ 2 * 2 ^ 1 * 2 ^ 1 * 2 ^ 1 * 2 ^ 1 * 2 ^ 1 * 2 ^ 1 := rfl
  rw [hparts]
  simp only [← Nat.div_div_eq_div_mul, frStatus, append_toNat_div]
  rw [BitVec.toNat_append, BitVec.toNat_zero, Nat.zero_shiftLeft, Nat.zero_or]

/-- Bits 2 to 7 of the FR_STATUS response (42_host_transactions.md R113). -/
theorem frStatus_flags (outcap : Nat) (f : Fru) :
    (frStatus outcap f).getLsbD 2 = inReady outcap f ∧ (frStatus outcap f).getLsbD 3 = outValid f ∧
    (frStatus outcap f).getLsbD 4 = f.skipped ∧ (frStatus outcap f).getLsbD 5 = f.trail ∧
    (frStatus outcap f).getLsbD 6 = f.cmderr ∧ (frStatus outcap f).getLsbD 7 = false := by
  simp only [frStatus, BitVec.getLsbD_append]
  simp

/-- IN_READY (10_state.md R30). -/
theorem inReady_iff (outcap : Nat) (f : Fru) :
    inReady outcap f = true ↔
      f.state = .run ∧ (0 < f.fill ∨ f.outq.length + 3 * f.width.toNat ≤ outcap) := by
  simp [inReady, hasRoom_iff]

/-- OUT_VALID (10_state.md R30). -/
theorem outValid_iff (f : Fru) : outValid f = true ↔ 0 < f.outq.length := by
  simp [outValid, List.length_pos_iff]

/-- Settles O34: the fields of the response one by one. -/
theorem statusReadShowsEachField : Obligations.StatusReadShowsEachField := by
  intro s
  obtain ⟨hready, hvalid, hskipped, htrail, hcmderr, hzero⟩ := frStatus_flags s.outcap s.fru
  refine ⟨frStatus s.outcap s.fru, rfl, ?_, ?_, ?_, hskipped, htrail, hcmderr, hzero, ?_⟩
  · rw [frStatus_toNat_mod]
    cases s.fru.state <;> rfl
  · rw [hready, inReady_iff]
  · rw [hvalid, outValid_iff]
  · rw [frStatus_toNat_div]
    cases s.fru.cause <;> rfl

/-! ### The other reads -/

/-- The FR_CFG response as a number (42_host_transactions.md R101). -/
theorem frCfg_eq_ite (f : Fru) : frCfg f = if f.oninv then 1#32 else 0#32 := by
  unfold frCfg
  cases f.oninv <;> rfl

/-- Settles O35: each read answers its register; FR_CFG and FR_FTAG are zero-extended, FR_OUTLVL is a count. -/
theorem fruReadsShowTheirRegister : Obligations.FruReadsShowTheirRegister := by
  intro s
  have hftag : frFtag s.fru = s.fru.ftag.setWidth 32 :=
    (BitVec.setWidth_eq_append (x := s.fru.ftag) (w := 32) (by decide)).symm
  refine ⟨?_, rfl, rfl, rfl, rfl, rfl, ?_, fun n hn => ?_⟩
  · rw [← frCfg_eq_ite]
    rfl
  · rw [← hftag]
    rfl
  · have hlevel : BitVec.ofNat 32 s.fru.outq.length = n := by rw [← hn, BitVec.ofNat_toNat, BitVec.setWidth_eq]
    rw [← hlevel]
    rfl

/-- Settles O36: the reserved numbers have no row of their own in either direction. -/
theorem reservedNumbersSelectNothing : Obligations.ReservedNumbersSelectNothing := by
  have hreserved : ∀ n : RegNum, n.toNat = 14 ∨ n.toNat = 15 ∨ 21 ≤ n.toNat →
      n ∉ readableRegs ∧ n ∉ writableRegs := by decide
  intro s n v hn
  obtain ⟨hread, hwrite⟩ := hreserved n hn
  rw [decodeWord_encodeTx, decodeWord_encodeTx, if_neg nofun, if_pos rfl, decodeRead_of_notMem hread,
    decodeWrite_of_notMem hwrite]
  exact ⟨rfl, rfl⟩

/-- Settles O53: the meaning of every such read is `answer`. -/
theorem plainReadsChangeNoState : Obligations.PlainReadsChangeNoState := by
  intro i s hi
  cases i
  all_goals first | exact ⟨_, rfl⟩ | cases hi

end Sys2Proof.Machine
end

section
/-! The faults of the FRU: what FAULT keeps (O47), which instruction raises which fault (O50), and the tag pushed
without room for its row (O27). -/

namespace Sys2Proof.Machine

/-! ### Pushes in FAULT -/

/-- No sequence of pushes has an effect in FAULT (42_host_transactions.md R108). -/
theorem pushBytes_of_fault (outcap : Nat) (ds : List Byte) {f : Fru} (hf : f.state = .fault) :
    pushBytes outcap ds f = .ok f := by
  induction ds with
  | nil => rfl
  | cons d ds ih =>
    rw [pushBytes, pushByte_of_dropped outcap d (.inr hf)]
    exact ih

/-- Settles O47: in FAULT pushes are dropped and EOS has no effect, and the instructions that write the FRU write
the configuration, CMDERR or OUTQ. -/
theorem faultIsSticky : Obligations.FaultIsSticky := by
  intro i s t h hfault hs hr
  by_cases hi : isInput i = true
  · obtain ⟨ds, g, hg, rfl⟩ := exec_input_next hi h
    rw [pushBytes_of_fault s.outcap ds hfault] at hg
    cases hg
    exact ⟨hfault, rfl, rfl, rfl, rfl, rfl, rfl, rfl, rfl, rfl⟩
  rcases exec_fru_cases h (by simpa using hi) hs hr with
    ht | ⟨_, hrun, _⟩ | ⟨_, _, ht⟩ | ⟨_, _, _, _, ht⟩ | ⟨_, _, _, ht⟩
  case inr.inl => rw [hfault] at hrun; cases hrun
  all_goals
    rw [ht]
    exact ⟨hfault, rfl, rfl, rfl, rfl, rfl, rfl, rfl, rfl, rfl⟩

/-! ### The faults of the input stream -/

/-- The tag pushed without room for its row raises InputOverrun (60_exceptions.md R124). -/
theorem pushByte_tag_without_room {outcap : Nat} {f : Fru} (hrun : f.state = .run) (hboundary : f.fill = 0)
    (hroom : outcap < f.outq.length + 3 * f.width.toNat) (tag : Byte) :
    pushByte outcap tag f = .ok (raiseFault .inputOverrun f) := by
  have hnone : ¬ hasRoom outcap f = true := by
    rw [hasRoom_iff]
    omega
  rw [pushByte_of_run outcap tag hrun, pushInRun, if_pos hboundary, if_neg hnone]

/-- Settles O27: FR.PUSH is the push of a byte, here of a tag without room. -/
theorem tagPushWithoutRoomFaults : Obligations.TagPushWithoutRoomFaults := by
  intro s data hrun hboundary hroom
  rw [exec_frPush, pushByte_tag_without_room hrun hboundary hroom]
  rfl

/-- `f` is as the fault of a push leaves it: UnsupportedFilterTag at the end of a record (60_exceptions.md R122) or
InputOverrun at the tag of one (60_exceptions.md R124). -/
def FaultedByPush (outcap : Nat) (f : Fru) : Prop :=
  (f.cause = .unsupportedFilterTag ∧ f.oninv = false ∧ 5 ≤ f.ft.toNat ∧ f.fill = 1 + rowBytes f) ∨
  (f.cause = .inputOverrun ∧ f.fill = 0 ∧ outcap < f.outq.length + rowBytes f)

/-- The end of the image is no fault (40_filter_reconstruction.md R82). -/
theorem endOfImage_state_ne_fault {f : Fru} (hf : f.state ≠ .fault) : (endOfImage f).state ≠ .fault := by
  unfold endOfImage
  split
  · nofun
  · exact hf

/-- The completion check fails only at the end of a record whose tag is invalid (60_exceptions.md R122). -/
theorem faultedByPush_of_completionCheck (outcap : Nat) {f g : Fru} (hf : f.state ≠ .fault)
    (h : completionCheck f = .ok g) (hg : g.state = .fault) : FaultedByPush outcap g := by
  rcases completionCheck_ok h with ⟨_, rfl⟩ | ⟨_, _, c, hc, rfl⟩ | ⟨_, _, _, rfl⟩ | ⟨hend, hft, ho, rfl⟩
  · exact absurd hg hf
  · obtain ⟨_, _, rfl⟩ := commitRow_ok hc
    exact absurd hg (endOfImage_state_ne_fault hf)
  · exact absurd hg (endOfImage_state_ne_fault hf)
  · exact .inl ⟨rfl, ho, hft, hend⟩

/-- A push that enters FAULT. -/
theorem faultedByPush_of_pushByte {outcap : Nat} {d : Byte} {f g : Fru} (hf : f.state ≠ .fault)
    (h : pushByte outcap d f = .ok g) (hg : g.state = .fault) : FaultedByPush outcap g := by
  rcases pushByte_ok h with
    ⟨_, rfl⟩ | ⟨_, rfl⟩ | ⟨_, hboundary, hroom, rfl⟩ | ⟨_, _, _, hc⟩ | ⟨_, _, m, hm, hc⟩
  · exact absurd hg hf
  · exact absurd hg hf
  · exact .inr ⟨rfl, hboundary, hroom⟩
  · exact faultedByPush_of_completionCheck outcap (f := tagStep d f) hf hc hg
  · obtain ⟨hframe, _⟩ := sampleStep_frame hm
    have hm' : m.state ≠ .fault := by rw [hframe]; exact hf
    exact faultedByPush_of_completionCheck outcap hm' hc hg

/-- A sequence of pushes that enters FAULT: the pushes after the one that enters it change nothing. -/
theorem faultedByPush_of_pushBytes {outcap : Nat} {ds : List Byte} {f g : Fru} (hf : f.state ≠ .fault)
    (h : pushBytes outcap ds f = .ok g) (hg : g.state = .fault) : FaultedByPush outcap g := by
  refine pushBytes_induct (fun k => k.state = .fault → FaultedByPush outcap k) (fun d m k hm hd hk => ?_)
    (absurd · hf) h hg
  by_cases hfault : m.state = .fault
  · rw [pushByte_of_dropped outcap d (.inr hfault)] at hd
    cases hd
    exact hm hfault
  · exact faultedByPush_of_pushByte hfault hd hk

/-- Pushes outside RUN leave STATE as it is (42_host_transactions.md R108). -/
theorem pushBytes_state_of_ne_run {outcap : Nat} {ds : List Byte} {f g : Fru} (hf : f.state ≠ .run)
    (h : pushBytes outcap ds f = .ok g) : g.state = f.state := by
  refine pushBytes_induct (fun k => k.state = f.state) (fun d m k hm hd => ?_) rfl h
  have hne : m.state ≠ .run := hm ▸ hf
  rcases pushByte_ok hd with ⟨_, rfl⟩ | ⟨_, rfl⟩ | ⟨hrun, _⟩ | ⟨hrun, _⟩ | ⟨hrun, _⟩
  · exact hm
  · exact hm
  all_goals exact absurd hrun hne

/-- No sequence of pushes changes FR_WIDTH or FR_CFG.ONINV. -/
theorem pushBytes_width_oninv {outcap : Nat} {ds : List Byte} {f g : Fru}
    (h : pushBytes outcap ds f = .ok g) : g.width = f.width ∧ g.oninv = f.oninv := by
  refine pushBytes_induct (fun k => k.width = f.width ∧ k.oninv = f.oninv) ?_ ⟨rfl, rfl⟩ h
  rintro d m k ⟨hmw, hmo⟩ hd
  obtain ⟨ho, hw, _⟩ := pushByte_frame hd
  exact ⟨hw.trans hmw, ho.trans hmo⟩

/-! ### The sources of the faults -/

/-- START faults only for a width beyond MAXW (60_exceptions.md R123). -/
theorem startRun_state_fault {maxw : Nat} {f : Fru} (h : (startRun maxw f).state = .fault) :
    maxw < f.width.toNat ∧ (startRun maxw f).cause = .configError := by
  rw [startRun_eq] at h ⊢
  by_cases hw : maxw < f.width.toNat
  · rw [if_pos hw]
    exact ⟨hw, rfl⟩
  · rw [if_neg hw] at h
    exact absurd h (endOfImage_state_ne_fault nofun)

/-- Settles O50: input enters FAULT by a push in RUN, START by its check of the width, EOS in RUN; RESET enters IDLE
and the other instructions leave STATE. -/
theorem eachFaultHasItsOneSource : Obligations.EachFaultHasItsOneSource := by
  intro i s t h hs ht
  by_cases hi : isInput i = true
  · obtain ⟨ds, g, hg, rfl⟩ := exec_input_next hi h
    have hrun : s.fru.state = .run := by
      by_contra hne
      exact hs ((pushBytes_state_of_ne_run hne hg).symm.trans ht)
    obtain ⟨hw, ho⟩ := pushBytes_width_oninv hg
    have hfaulted : FaultedByPush s.outcap g := faultedByPush_of_pushBytes hs hg ht
    rw [FaultedByPush, rowBytes, hw, ho] at hfaulted
    rcases hfaulted with ⟨hc, ho, hft, hend⟩ | ⟨hc, hboundary, hroom⟩
    · exact .inr (.inr (.inl ⟨hc, hi, hrun, ho, hft, hend⟩))
    · exact .inr (.inr (.inr ⟨hc, hi, hrun, hboundary, hroom⟩))
  by_cases hstart : i = .frStart
  · subst hstart
    cases h
    obtain ⟨hw, hc⟩ := startRun_state_fault ht
    exact .inr (.inl ⟨hc, rfl, hw⟩)
  by_cases hreset : i = .frReset
  · subst hreset
    cases h
    cases ht
  rcases exec_fru_cases h (by simpa using hi) hstart hreset with
    he | ⟨heos, hrun, he⟩ | ⟨_, _, he⟩ | ⟨_, _, _, _, he⟩ | ⟨_, _, _, he⟩
  case inr.inl => exact .inl ⟨by rw [he]; rfl, heos, hrun⟩
  all_goals
    rw [he] at ht
    exact absurd ht hs

end Sys2Proof.Machine
end

section
/-! Hardware reset (O8), and the configuration, which stands still in RUN (O48). -/

namespace Sys2Proof.Machine

/-! ### Hardware reset -/

/-- The step on a hardware reset (70_reset_and_hazards.md R140). -/
theorem step_hardwareReset {s : State} {rest : List HostInput} (hin : s.input = .hardwareReset :: rest) :
    step s = .next (hardwareReset rest s) := by
  unfold step
  rw [hin]

/-- Settles O8: the line buffers are those of the reset with the current number, and every other field of
`hardwareReset` has its stated value by definition. -/
theorem hardwareResetTakesTheWholeBlock : Obligations.HardwareResetTakesTheWholeBlock :=
  fun s _ hin => ⟨(Fru.reset s.draw s.maxw).cur, (Fru.reset s.draw s.maxw).prior, s.draw + 1,
    reset_cur_length s.draw s.maxw, reset_prior_length s.draw s.maxw, step_hardwareReset hin⟩

/-! ### The configuration -/

/-- FR_CFG, FR_WIDTH and FR_HEIGHT are in `g` what they are in `f` (10_state.md R28, R29). -/
def SameConfiguration (f g : Fru) : Prop :=
  g.oninv = f.oninv ∧ g.width = f.width ∧ g.height = f.height

/-- No sequence of pushes writes the configuration, also when it ends the run. -/
theorem sameConfiguration_pushBytes {outcap : Nat} {ds : List Byte} {f g : Fru}
    (h : pushBytes outcap ds f = .ok g) : SameConfiguration f g := by
  refine pushBytes_induct (SameConfiguration f) ?_ ⟨rfl, rfl, rfl⟩ h
  rintro d m k ⟨hmo, hmw, hmh⟩ hd
  obtain ⟨ho, hw, hh, _⟩ := pushByte_frame hd
  exact ⟨ho.trans hmo, hw.trans hmw, hh.trans hmh⟩

/-- START reads the configuration and does not write it (42_host_transactions.md R103). -/
theorem sameConfiguration_startRun (maxw : Nat) (f : Fru) : SameConfiguration f (startRun maxw f) := by
  rw [startRun_eq_update]
  exact ⟨rfl, rfl, rfl⟩

/-- Settles O48: pushes and START never write the configuration, the writes of it are ignored in RUN, and the
other instructions write other fields. -/
theorem configurationIsFixedInRun : Obligations.ConfigurationIsFixedInRun := by
  intro i s t h hrun hreset
  by_cases hi : isInput i = true
  · obtain ⟨ds, g, hg, rfl⟩ := exec_input_next hi h
    exact sameConfiguration_pushBytes hg
  by_cases hstart : i = .frStart
  · subst hstart
    cases h
    exact sameConfiguration_startRun s.maxw s.fru
  rcases exec_fru_cases h (by simpa using hi) hstart hreset with
    ht | ⟨_, _, ht⟩ | ⟨_, _, ht⟩ | ⟨hne, _⟩ | ⟨_, _, _, ht⟩
  case inr.inr.inr.inl => exact absurd hrun hne
  all_goals
    rw [ht]
    exact ⟨rfl, rfl, rfl⟩

end Sys2Proof.Machine
end
